-- ==== Sys2Proof/Word.lean ====
section
/-! DEFINITION. The word types of the engine: bytes, 32-bit words, byte arrays of fixed length. -/

namespace Sys2Proof

/-- A byte, an integer 0..255 (R8). -/
abbrev Byte := BitVec 8

/-- A 32-bit word: the width of a control register (R38 to R42) and of a SHA-256 word (R121). -/
abbrev Word32 := BitVec 32

/-- A byte array of `n` bytes, element 0 first (R8). -/
abbrev Bytes (n : Nat) := Vector Byte n

/-- A key, 32 bytes (R6, R21). -/
abbrev Key := Bytes 32

/-- Half a block, 32 bytes (R6, R152). -/
abbrev Half := Bytes 32

/-- A block, 64 bytes (R6, R13). -/
abbrev Block := Bytes 64

end Sys2Proof
end

