-- ==== Sys2Proof/Config.lean ====
section
/-! DEFINITION. What an implementation or its platform fixes: the one parameter that the spec leaves open,
and the constants of the construction (R6). -/

namespace Sys2Proof

/-- `BASE`, the address at which the platform places the register window: left open by R71 and U17, a
parameter of the model. It has no body, so nothing rests on a value of it (log 8). -/
opaque Config.base : Nat

/-- The size of the register window in bytes (R6, R60). -/
def Config.windowSize : Nat := 64

/-- `KeySize` (R6). -/
def Config.keySize : Nat := 32

/-- `BlockSize` (R6), also the length of an IV and the `size` of the engine's blockizer (R183). -/
def Config.blockSize : Nat := 64

/-- `Rounds` (R6). -/
def Config.rounds : Nat := 16

/-- The capacity of `BUF`: 63 retained bytes plus one 4-byte push (R6, R182). -/
def Config.bufCapacity : Nat := 67

end Sys2Proof
end

