-- ==== Sys2Proof/Syntax.lean ====
section
/-! DEFINITION. The 17 instructions of the opcode table (R90, R94), the access sizes (R62) and the transaction
descriptor (R91). -/

namespace Sys2Proof

/-- The size of a bus transaction: 1, 2 or 4 bytes; other sizes do not exist on the bus (R62). -/
inductive Size where
  | b1
  | b2
  | b4
  deriving DecidableEq, Repr

/-- The number of bytes a transaction of this size carries (R62). -/
def Size.bytes : Size → Nat
  | .b1 => 1
  | .b2 => 2
  | .b4 => 4

/-- The 41-bit transaction descriptor `T`: `dir` in bit 40, `sz` in 39:38, `off` in 37:32, `data` in 31:0 (R91). -/
abbrev Descriptor := BitVec 41

/-- One constructor per row of the opcode table (R94). A command has no operand (R92); a push carries its size
and its value `v`, a pop its size (R93); a register read carries nothing (R93). -/
inductive Instr where
  /-- `RESET`, command 0x01 (R270). -/
  | reset
  /-- `ABORT`, command 0x02 (R271). -/
  | abort
  /-- `CLRKEY`, command 0x03 (R272). -/
  | clrkey
  /-- `CLRIV`, command 0x04 (R273). -/
  | clriv
  /-- `FWD`, command 0x10 (R156). -/
  | fwd
  /-- `BWD`, command 0x11 (R157). -/
  | bwd
  /-- `ENC_START`, command 0x20 (R212). -/
  | encStart
  /-- `DEC_START`, command 0x21 (R240). -/
  | decStart
  /-- `FINAL`, command 0x22 (R214). -/
  | final
  /-- `PUSHK`, a write at 0x10 (R184). -/
  | pushk (n : Size) (v : Word32)
  /-- `PUSHIV`, a write at 0x14 (R185). -/
  | pushiv (n : Size) (v : Word32)
  /-- `PUSHD`, a write at 0x18 (R186). -/
  | pushd (n : Size) (v : Word32)
  /-- `POP`, a read at 0x1C (R190). -/
  | pop (n : Size)
  /-- `RDID`, a 4-byte read at 0x00 (R274). -/
  | rdid
  /-- `RDPARAM`, a 4-byte read at 0x04 (R275). -/
  | rdparam
  /-- `RDSTATUS`, a 4-byte read at 0x0C (R276). -/
  | rdstatus
  /-- `RDLEN`, a 4-byte read at 0x20 (R277). -/
  | rdlen
  deriving DecidableEq, Repr

end Sys2Proof
end

