-- ==== Sys2Proof/WellFormed.lean ====
section
/-! DEFINITION. Which instructions a host can issue: the value of an `n`-byte write is below `2^(8n)` (R62). -/

namespace Sys2Proof

/-- The value of an `n`-byte write: `0 ≤ v < 2^(8n)` (R62). -/
def Size.fits (n : Size) (v : Word32) : Bool := decide (v.toNat < 2 ^ (8 * n.bytes))

/-- The well-formed instructions: a push carries a value that fits its size (R62, R91). -/
def Instr.wf : Instr → Bool
  | .reset => true
  | .abort => true
  | .clrkey => true
  | .clriv => true
  | .fwd => true
  | .bwd => true
  | .encStart => true
  | .decStart => true
  | .final => true
  | .pushk n v => n.fits v
  | .pushiv n v => n.fits v
  | .pushd n v => n.fits v
  | .pop _ => true
  | .rdid => true
  | .rdparam => true
  | .rdstatus => true
  | .rdlen => true

end Sys2Proof
end

