-- ==== Sys2Proof/Decode.lean ====
section
/-! DEFINITION. The decoder, total on every 41-bit descriptor and refusing by name; the encoder; the masks and
patterns of the opcode table; the host's view of the decoder. -/

namespace Sys2Proof

/-- Why a descriptor is no instruction of the table. -/
inductive DecodeError where
  /-- `sz = 3`: the descriptor names no transaction, nothing reaches the engine (R91, U12). -/
  | notATransaction
  /-- An ill-addressed write: offset, size or direction is wrong (R64, R65). -/
  | illAddressedWrite
  /-- An ill-addressed read: offset, size or direction is wrong (R64, R65). -/
  | illAddressedRead
  /-- A `CMD` write whose value is no command: reserved bits set or a reserved opcode (R96, R97). -/
  | illegalCommand
  deriving DecidableEq, Repr

/-- Bit 40 of the descriptor: 1 for a write (R91). -/
def Descriptor.isWrite (t : Descriptor) : Bool := t.extractLsb' 40 1 == 1#1

/-- Bits 39:38 of the descriptor (R91). -/
def Descriptor.sz (t : Descriptor) : BitVec 2 := t.extractLsb' 38 2

/-- Bits 37:32 of the descriptor, the window offset (R91). -/
def Descriptor.off (t : Descriptor) : BitVec 6 := t.extractLsb' 32 6

/-- Bits 31:0 of the descriptor (R91). -/
def Descriptor.data (t : Descriptor) : Word32 := t.extractLsb' 0 32

/-- The size a `sz` field names: 0, 1, 2 for 1, 2, 4 bytes; 3 does not exist (R91). -/
def sizeOfField (f : BitVec 2) : Option Size :=
  if f = 0 then some .b1 else if f = 1 then some .b2 else if f = 2 then some .b4 else none

/-- The `sz` field of a size (R91). -/
def sizeField : Size → BitVec 2
  | .b1 => 0
  | .b2 => 1
  | .b4 => 2

/-- The `n`-byte value of a write: the lanes above the size do not exist on the bus (R62, R91; log 5). -/
def writeValue (n : Size) (data : Word32) : Word32 :=
  match n with
  | .b1 => data &&& 0x000000FF
  | .b2 => data &&& 0x0000FFFF
  | .b4 => data

/-- The command of a 4-byte write to `CMD`: bits 31:8 must be zero, bits 7:0 are the opcode (R92, R94 to R97). -/
def decodeCommand (v : Word32) : Except DecodeError Instr :=
  if v.extractLsb' 8 24 ≠ 0 then .error .illegalCommand
  else if v.extractLsb' 0 8 = 0x01 then .ok .reset
  else if v.extractLsb' 0 8 = 0x02 then .ok .abort
  else if v.extractLsb' 0 8 = 0x03 then .ok .clrkey
  else if v.extractLsb' 0 8 = 0x04 then .ok .clriv
  else if v.extractLsb' 0 8 = 0x10 then .ok .fwd
  else if v.extractLsb' 0 8 = 0x11 then .ok .bwd
  else if v.extractLsb' 0 8 = 0x20 then .ok .encStart
  else if v.extractLsb' 0 8 = 0x21 then .ok .decStart
  else if v.extractLsb' 0 8 = 0x22 then .ok .final
  else .error .illegalCommand

/-- A write of `n` bytes at an offset: `CMD` takes 4 bytes, the three push ports any size (R61, R62, R64, R65). -/
def decodeWrite (n : Size) (off : BitVec 6) (v : Word32) : Except DecodeError Instr :=
  if off = 0x08 ∧ n = .b4 then decodeCommand v
  else if off = 0x10 then .ok (.pushk n (writeValue n v))
  else if off = 0x14 then .ok (.pushiv n (writeValue n v))
  else if off = 0x18 then .ok (.pushd n (writeValue n v))
  else .error .illAddressedWrite

/-- A read of `n` bytes at an offset: `DOUT` takes any size, the readable control registers 4 bytes (R61, R62,
R64, R65). -/
def decodeRead (n : Size) (off : BitVec 6) : Except DecodeError Instr :=
  if off = 0x1C then .ok (.pop n)
  else if off = 0x00 ∧ n = .b4 then .ok .rdid
  else if off = 0x04 ∧ n = .b4 then .ok .rdparam
  else if off = 0x0C ∧ n = .b4 then .ok .rdstatus
  else if off = 0x20 ∧ n = .b4 then .ok .rdlen
  else .error .illAddressedRead

/-- The decoder, in the order of R103: the size exists, then offset, size and direction, then the command value.
The data field of a read carries nothing (R91, R94; log 5). -/
def decode (t : Descriptor) : Except DecodeError Instr :=
  match sizeOfField (Descriptor.sz t) with
  | none => .error .notATransaction
  | some n =>
    if Descriptor.isWrite t then decodeWrite n (Descriptor.off t) (Descriptor.data t)
    else decodeRead n (Descriptor.off t)

/-- A descriptor put together from its four fields (R91). -/
def descriptor (dir : BitVec 1) (sz : BitVec 2) (off : BitVec 6) (data : Word32) : Descriptor :=
  dir ++ sz ++ off ++ data

/-- `MemWrite(off, n, v)` as a descriptor (R10, R91). -/
def memWrite (off : BitVec 6) (n : Size) (v : Word32) : Descriptor :=
  descriptor 1 (sizeField n) off v

/-- `MemRead(off, n)` as a descriptor: the data field of a read is 0 (R10, R91). -/
def memRead (off : BitVec 6) (n : Size) : Descriptor :=
  descriptor 0 (sizeField n) off 0

/-- The encoder: the transaction of each instruction, from the formats of R92 and R93 and the values of R94. -/
def encode : Instr → Descriptor
  | .reset => memWrite 0x08 .b4 0x01
  | .abort => memWrite 0x08 .b4 0x02
  | .clrkey => memWrite 0x08 .b4 0x03
  | .clriv => memWrite 0x08 .b4 0x04
  | .fwd => memWrite 0x08 .b4 0x10
  | .bwd => memWrite 0x08 .b4 0x11
  | .encStart => memWrite 0x08 .b4 0x20
  | .decStart => memWrite 0x08 .b4 0x21
  | .final => memWrite 0x08 .b4 0x22
  | .pushk n v => memWrite 0x10 n v
  | .pushiv n v => memWrite 0x14 n v
  | .pushd n v => memWrite 0x18 n v
  | .pop n => memRead 0x1C n
  | .rdid => memRead 0x00 .b4
  | .rdparam => memRead 0x04 .b4
  | .rdstatus => memRead 0x0C .b4
  | .rdlen => memRead 0x20 .b4

/-- The column `T match` of the opcode map (R94). -/
def tablePattern : Instr → Descriptor
  | .reset => 0x18800000001
  | .abort => 0x18800000002
  | .clrkey => 0x18800000003
  | .clriv => 0x18800000004
  | .fwd => 0x18800000010
  | .bwd => 0x18800000011
  | .encStart => 0x18800000020
  | .decStart => 0x18800000021
  | .final => 0x18800000022
  | .pushk _ _ => 0x11000000000
  | .pushiv _ _ => 0x11400000000
  | .pushd _ _ => 0x11800000000
  | .pop _ => 0x01C00000000
  | .rdid => 0x08000000000
  | .rdparam => 0x08400000000
  | .rdstatus => 0x08C00000000
  | .rdlen => 0x0A000000000

/-- The column `T mask` of the opcode map (R94). -/
def tableMask : Instr → Descriptor
  | .reset => 0x1FFFFFFFFFF
  | .abort => 0x1FFFFFFFFFF
  | .clrkey => 0x1FFFFFFFFFF
  | .clriv => 0x1FFFFFFFFFF
  | .fwd => 0x1FFFFFFFFFF
  | .bwd => 0x1FFFFFFFFFF
  | .encStart => 0x1FFFFFFFFFF
  | .decStart => 0x1FFFFFFFFFF
  | .final => 0x1FFFFFFFFFF
  | .pushk _ _ => 0x13F00000000
  | .pushiv _ _ => 0x13F00000000
  | .pushd _ _ => 0x13F00000000
  | .pop _ => 0x13F00000000
  | .rdid => 0x1FF00000000
  | .rdparam => 0x1FF00000000
  | .rdstatus => 0x1FF00000000
  | .rdlen => 0x1FF00000000

/-- The row of an instruction selects a descriptor: `T and mask = match` (R94). -/
def rowSelects (i : Instr) (t : Descriptor) : Bool := t &&& tableMask i == tablePattern i

/-- The host's view of the decoder: the instruction read from the descriptor whose bits are `w`. A descriptor has
41 bits (R91), so a word with a bit above them is none (log 13). -/
def decodeTableWord (_nbits w : Nat) : Option Instr :=
  if w < 2 ^ 41 then (decode (BitVec.ofNat 41 w)).toOption else none

end Sys2Proof
end

