-- ==== Sys2Proof/Machine/State.lean ====
section
/-! DEFINITION. The state of the engine (R20), its reset (R340), and the reasons a step can stop. -/

namespace Sys2Proof.Machine

/-- `MODE`: which stream operation is open; the codes 3 to 6 never occur (R33, U14). -/
inductive Mode where
  /-- `IDLE`, code 0: no stream operation is open. -/
  | idle
  /-- `ENC`, code 1: an encryption is open. -/
  | enc
  /-- `DEC`, code 2: a decryption is open. -/
  | dec
  /-- `FAULT`, code 7: a fatal error has occurred. -/
  | fault
  deriving DecidableEq, Repr

/-- `JOB`: what the engine agent does at its next step; the codes 5 to 7 never occur (R33, U14). -/
inductive Job where
  /-- `NONE`, code 0: nothing. -/
  | none
  /-- `FWD`, code 1 (R158). -/
  | fwd
  /-- `BWD`, code 2 (R159). -/
  | bwd
  /-- `BLOCK`, code 3: process `BUF[0..63]` in the current mode (R213, R241). -/
  | block
  /-- `FINAL`, code 4: finish the current stream (R215, R243). -/
  | final
  deriving DecidableEq, Repr

/-- The fault codes 1 to 6 that `ERR` can hold (R301); a fault of the spec is a next state of the model, see
`raiseFault` (R310). -/
inductive FaultCode where
  /-- Code 1 (R302). -/
  | invalidKeyLength
  /-- Code 2 (R304). -/
  | invalidIVLength
  /-- Code 3 (R305). -/
  | invalidBlockLength
  /-- Code 4 (R306). -/
  | illegalCommand
  /-- Code 5 (R303). -/
  | protocolError
  /-- Code 6 (R307). -/
  | busError
  deriving DecidableEq, Repr

/-- One event of a run: a transaction of the host, a turn of the engine agent, or a hardware reset (R7). -/
inductive Event where
  /-- The host issues the transaction of this descriptor (R90, R91). -/
  | transaction (t : Descriptor)
  /-- The engine agent has the turn: `EngineStep` if it is enabled (R279). -/
  | engine
  /-- The platform resets the hardware (R341). -/
  | hardwareReset
  deriving DecidableEq, Repr

/-- The whole architectural state (R20), and two fields of the model's own: `inputs`, the events of the run still
to come (R7 calls the schedule a parameter of a run; log 1), and `resp`, what the latest step returned to the host
(log 3). -/
@[ext]
structure State where
  /-- `KEY` (R21). -/
  key : Key
  /-- `KEYLEN` (R21). -/
  keylen : BitVec 8
  /-- `IV` (R22). -/
  iv : Block
  /-- `IVLEN` (R22). -/
  ivlen : BitVec 8
  /-- `BUF` (R23). -/
  buf : Bytes 67
  /-- `BUFCNT` (R23). -/
  bufcnt : BitVec 8
  /-- `OBUF` (R24). -/
  obuf : Block
  /-- `OLEN` (R24). -/
  olen : BitVec 7
  /-- `ORD` (R24). -/
  ord : BitVec 7
  /-- `CHAIN` (R25). -/
  chain : Block
  /-- `HELD` (R26). -/
  held : Block
  /-- `HELDV` (R26). -/
  heldv : Bool
  /-- `PFB` (R27). -/
  pfb : Bool
  /-- `ANY` (R28). -/
  any : Bool
  /-- `DONE` (R29). -/
  done : Bool
  /-- `MODE` (R33). -/
  mode : Mode
  /-- `JOB` (R33). -/
  job : Job
  /-- `ERR`, `none` for code 0 (R30, R301). -/
  err : Option FaultCode
  /-- The model's own: the events still to come (log 1). -/
  inputs : List Event
  /-- The model's own: the value the latest step returned to the host, if it was a read (log 3). -/
  resp : Option Word32
  deriving DecidableEq, Repr

/-- The host interface's faults. The engine has none: every fault the spec describes is a next state (R300, R310),
and no engine step can fault (R279). A type without a value, so no meaning can answer with it: safe. -/
inductive Fault where
  deriving DecidableEq, Repr

/-- Why a step has no meaning. -/
inductive Refusal where
  /-- An instruction without a meaning; raised by no arm of this model. Safe. -/
  | notModelled (mnemonic : String)
  /-- The event is a descriptor with `sz = 3`, which names no transaction: nothing reaches the engine (R91, U12).
  Raised by the step on such a descriptor, never by an instruction. Safe: the step stops, no claim can rest on it. -/
  | notATransaction
  deriving DecidableEq, Repr

/-- The outcome of a step. -/
abbrev Result := Host.Outcome State Fault Refusal

/-- The machine after reset: every item of R20 has the value of R340; no event is pending and no value has been
returned (log 1, 3). -/
def State.reset : State where
  key := Vector.replicate 32 0x00
  keylen := 0
  iv := Vector.replicate 64 0x00
  ivlen := 0
  buf := Vector.replicate 67 0x00
  bufcnt := 0
  obuf := Vector.replicate 64 0x00
  olen := 0
  ord := 0
  chain := Vector.replicate 64 0x00
  held := Vector.replicate 64 0x00
  heldv := false
  pfb := false
  any := false
  done := false
  mode := .idle
  job := .none
  err := none
  inputs := []
  resp := none

end Sys2Proof.Machine
end

