-- ==== Sys2Proof/Machine/Operands.lean ====
section
/-! DEFINITION. Operand assembly (R99): the byte lanes of a port access (R63), byte arrays of fixed length built
from byte sequences, and the runs of bytes the rules read and write. -/

namespace Sys2Proof.Machine

/-- Byte `j` of a 32-bit value: bits `[8j+7:8j]` (R63). -/
def lane (v : Word32) (j : Nat) : Byte := v.extractLsb' (8 * j) 8

/-- The bytes an `n`-byte write of `v` pushes, the least significant first (R63, R93). -/
def lanes (n : Size) (v : Word32) : List Byte := (List.range n.bytes).map (lane v)

/-- The value with the `j`-th byte of a sequence in bits `[8j+7:8j]` and zeros above (R63, R93). -/
def fromLanes : List Byte → Word32
  | [] => 0
  | b :: bs => b.setWidth 32 ||| (fromLanes bs <<< 8)

/-- The byte array whose element `i` is element `i` of the sequence, 0 past its end. -/
def fit (n : Nat) (s : List Byte) : Bytes n := Vector.ofFn fun i => s.getD i.val 0

/-- `A[0..len(s)-1] <- s`: the first elements are replaced, the others keep their values (R10). -/
def writePrefix {n : Nat} (a : Bytes n) (s : List Byte) : Bytes n :=
  Vector.ofFn fun i => s.getD i.val a[i]

/-- `if i < n: A[i] <- b`, the guarded store of a push (R184, R185, R186). -/
def storeAt {n : Nat} (a : Bytes n) (i : Nat) (b : Byte) : Bytes n := a.setIfInBounds i b

/-- `A[i]`; a position past the end, which no reachable state reads, gives 0 (log 7). -/
def byteAt {n : Nat} (a : Bytes n) (i : Nat) : Byte := a[i]?.getD 0

/-- Exclusive-or of two byte sequences of equal length, element by element (R120). -/
def xorBytes {n : Nat} (a b : Bytes n) : Bytes n := Vector.zipWith (fun x y => x ^^^ y) a b

/-- `rep(v, n)` (R8). -/
def rep (v : Byte) (n : Nat) : Bytes n := Vector.replicate n v

/-- `BUF[0..63]`, the block operand of the jobs `FWD`, `BWD` and `BLOCK` (R158, R159, R213, R241). -/
def bufBlock (s : State) : Block := Vector.ofFn fun i => s.buf[i.val]

/-- `BUF[0..k-1]` with `k = BUFCNT`, the bytes the blockizer still holds (R183, R215). -/
def bufBytes (s : State) : List Byte := s.buf.toList.take s.bufcnt.toNat

end Sys2Proof.Machine
end

