-- ==== Sys2Proof/Machine/Flags.lean ====
section
/-! DEFINITION. The derived values and the register words: `OAVAIL` and `BUSY` (R20), the saturating counters
(R132), the codes of `MODE`, `JOB` and `ERR` (R33, R301), the marker condition (R215), and the words that `ID`,
`PARAM`, `STATUS` and `LEN` read as (R38 to R41). -/

namespace Sys2Proof.Machine

/-- `min(c + 1, 255)`: a counter of pushed bytes saturates and never wraps (R132). -/
def satInc (c : BitVec 8) : BitVec 8 := BitVec.ofNat 8 (min (c.toNat + 1) 255)

/-- `OAVAIL = OLEN - ORD`, the bytes still to pop (R20, R24). -/
def State.oavail (s : State) : Nat := s.olen.toNat - s.ord.toNat

/-- `BUSY = (JOB ≠ NONE)` (R20). -/
def State.busy (s : State) : Bool := s.job != .none

/-- The code of `MODE` (R33). -/
def modeCode : Mode → BitVec 3
  | .idle => 0
  | .enc => 1
  | .dec => 2
  | .fault => 7

/-- The code of `JOB` (R33). -/
def jobCode : Job → BitVec 3
  | .none => 0
  | .fwd => 1
  | .bwd => 2
  | .block => 3
  | .final => 4

/-- The code of a fault (R301). -/
def faultCode : FaultCode → BitVec 4
  | .invalidKeyLength => 1
  | .invalidIVLength => 2
  | .invalidBlockLength => 3
  | .illegalCommand => 4
  | .protocolError => 5
  | .busError => 6

/-- The value of `ERR`, 0 when no fault has occurred since reset (R301). -/
def errCode : Option FaultCode → BitVec 4
  | none => 0
  | some c => faultCode c

/-- A flag as a 32-bit value. -/
def flag (b : Bool) : Word32 := if b then 1 else 0

/-- `MODE ∈ {ENC, DEC}`: a stream operation is open (R33). -/
def State.streaming (s : State) : Bool := s.mode == .enc || s.mode == .dec

/-- Encryptor `FINAL` with an empty remainder emits the marker block when `PFB = 1 or ANY = 0` (R28, R215). -/
def State.markerNeeded (s : State) : Bool := s.pfb || !s.any

/-- The constant `ID` reads as (R38, R274). -/
def idWord : Word32 := 0x48534643

/-- The constant `PARAM` reads as (R39, R275). -/
def paramWord : Word32 := 0x00104020

/-- The value `STATUS` reads as: `BUSY | DONE<<2 | PFB<<3 | ANY<<4 | HELDV<<5 | MODE<<8 | ERR<<12 | JOB<<16`
(R40, R276). -/
def statusWord (s : State) : Word32 :=
  flag s.busy ||| (flag s.done <<< 2) ||| (flag s.pfb <<< 3) ||| (flag s.any <<< 4) ||| (flag s.heldv <<< 5)
    ||| ((modeCode s.mode).setWidth 32 <<< 8) ||| ((errCode s.err).setWidth 32 <<< 12)
    ||| ((jobCode s.job).setWidth 32 <<< 16)

/-- The value `LEN` reads as: `KEYLEN | IVLEN<<8 | BUFCNT<<16 | OAVAIL<<24` (R41, R277). -/
def lenWord (s : State) : Word32 :=
  s.keylen.setWidth 32 ||| (s.ivlen.setWidth 32 <<< 8) ||| (s.bufcnt.setWidth 32 <<< 16)
    ||| (BitVec.ofNat 32 s.oavail <<< 24)

end Sys2Proof.Machine
end

