-- ==== Sys2Proof/Machine/Ops.lean ====
section
/-! DEFINITION. The operations the meanings share: answering the host, `FAULT` mode, taking a fault and the return
from it, the `requires` line of the pseudocode, pushing, emitting, the blockizer's shift, and putting a transaction
on the bus. -/

namespace Sys2Proof.Machine

/-- The step is over and returns `r` to the host: a value for a read, nothing for anything else (log 3). -/
def reply (r : Option Word32) (s : State) : Result := .next { s with resp := r }

/-- Fault entry, `raise Fault(code)` (R310): the first fault's code stays in `ERR`; the mode becomes `FAULT`; the
pending job, undrained output, buffered input, the held block and `DONE` are discarded. -/
def raiseFault (code : FaultCode) (s : State) : State :=
  { s with
    err := if s.mode = .fault then s.err else some code
    mode := .fault
    job := .none
    olen := 0
    ord := 0
    bufcnt := 0
    heldv := false
    done := false }

/-- The only return from `FAULT` mode, and the reset of every other mode: every item of R20 takes its reset value
(R270, R314, R340, R341). The events still to come are not the engine's and stay (log 1). -/
def softReset (s : State) : State := { State.reset with inputs := s.inputs }

/-- Outside `FAULT` mode the transaction has the effect `k`; inside it nothing changes and a read returns 0
(R312, R313). -/
def unlessFaulted (r : Option Word32) (s : State) (k : Result) : Result :=
  if s.mode = .fault then reply r s else k

/-- `requires c else raise F` (R10, R11): a faulting read returns 0, which the caller gives as `r`. -/
def require (c : Prop) [Decidable c] (code : FaultCode) (r : Option Word32) (s : State) (k : Result) : Result :=
  if c then k else reply r (raiseFault code s)

/-- One byte into `KEY`: stored below 32, counted with saturation (R184). -/
def pushKeyByte (s : State) (b : Byte) : State :=
  { s with key := storeAt s.key s.keylen.toNat b, keylen := satInc s.keylen }

/-- One byte into `IV`: stored below 64, counted with saturation (R185). -/
def pushIvByte (s : State) (b : Byte) : State :=
  { s with iv := storeAt s.iv s.ivlen.toNat b, ivlen := satInc s.ivlen }

/-- One byte into `BUF`: stored below 67, counted with saturation (R186). -/
def pushBufByte (s : State) (b : Byte) : State :=
  { s with buf := storeAt s.buf s.bufcnt.toNat b, bufcnt := satInc s.bufcnt }

/-- The `n` bytes that a `POP` returns, `OBUF[ORD], ..., OBUF[ORD+n-1]` (R190). -/
def popBytes (n : Size) (s : State) : List Byte :=
  (List.range n.bytes).map fun j => byteAt s.obuf (s.ord.toNat + j)

/-- `ORD <- ORD + n; if ORD = OLEN: OLEN <- 0; ORD <- 0` (R190). -/
def advanceOutput (n : Size) (s : State) : State :=
  if s.ord.toNat + n.bytes = s.olen.toNat then { s with olen := 0, ord := 0 }
  else { s with ord := BitVec.ofNat 7 (s.ord.toNat + n.bytes) }

/-- Emit a block of 64 bytes (R24, R211). -/
def emitBlock (b : Block) (s : State) : State := { s with obuf := b, olen := 64, ord := 0 }

/-- Emit a sequence of `m` bytes, `1 ≤ m ≤ 64`: `OBUF[0..m-1] <- f; OLEN <- m; ORD <- 0` (R24, R243). -/
def emitBytes (f : List Byte) (s : State) : State :=
  { s with obuf := writePrefix s.obuf f, olen := BitVec.ofNat 7 f.length, ord := 0 }

/-- The blockizer retains the remainder: `r <- BUFCNT - 64; BUF[0..r-1] <- BUF[64..64+r-1]; BUFCNT <- r` (R188). -/
def shiftBuf (s : State) : State :=
  { s with
    buf := writePrefix s.buf ((s.buf.toList.drop 64).take (s.bufcnt.toNat - 64))
    bufcnt := BitVec.ofNat 8 (s.bufcnt.toNat - 64) }

/-- The host puts a transaction on the bus, before every other event still to come. -/
def offer (t : Descriptor) (s : State) : State := { s with inputs := .transaction t :: s.inputs }

/-- The event of the next step. When no event is left the engine agent has the turn, so that an enabled engine step
is always taken at last (R347; log 2). -/
def nextEvent (s : State) : Event :=
  match s.inputs with
  | [] => .engine
  | e :: _ => e

/-- The state once the event of the step is taken from the list. -/
def takeEvent (s : State) : State := { s with inputs := s.inputs.tail }

end Sys2Proof.Machine
end

