-- ==== Sys2Proof/Machine/Bus.lean ====
section
/-! DEFINITION. The transactions that are no instruction: ill-addressed ones and illegal commands (R64, R65, R96,
R97, R306, R307); and the place of the register window in the platform's address map (R60, R62, R71). -/

namespace Sys2Proof.Machine

/-- A transaction that the decoder refuses. An ill-addressed one raises `BusError`, a `CMD` write that is no command
raises `IllegalCommand`; in `FAULT` mode both are ignored; an ill-addressed read returns 0 (R306, R307, R312, R313).
A descriptor with `sz = 3` is no transaction and has no meaning (U12). -/
def execUndecoded (e : DecodeError) (s : State) : Result :=
  match e with
  | .notATransaction => .refused .notATransaction
  | .illAddressedWrite => unlessFaulted none s <| reply none (raiseFault .busError s)
  | .illAddressedRead => unlessFaulted (some 0) s <| reply (some 0) (raiseFault .busError s)
  | .illegalCommand => unlessFaulted none s <| reply none (raiseFault .illegalCommand s)

/-- The offset of a platform address in the window at `BASE`; an address outside the window is not the engine's
concern (R71, U11). -/
def windowOffset (addr : Nat) : Option (BitVec 6) :=
  if Config.base ≤ addr ∧ addr < Config.base + Config.windowSize then some (BitVec.ofNat 6 (addr - Config.base))
  else none

/-- A write of `n` bytes at a platform address, as the transaction that reaches the engine, if one does (R62, R71). -/
def hostWrite (addr : Nat) (n : Size) (v : Word32) : Option Descriptor :=
  (windowOffset addr).map fun off => memWrite off n v

/-- A read of `n` bytes at a platform address, as the transaction that reaches the engine, if one does (R62, R71). -/
def hostRead (addr : Nat) (n : Size) : Option Descriptor :=
  (windowOffset addr).map fun off => memRead off n

end Sys2Proof.Machine
end

