-- ==== Sys2Proof/Machine/Commands.lean ====
section
/-! DEFINITION. The meanings of the commands that open, feed and finish work for the engine agent: `FWD`, `BWD`
(R156, R157), `ENC_START`, `DEC_START` (R212, R240), `FINAL` (R214). -/

namespace Sys2Proof.Machine

/-- The shared body of `FWD` and `BWD`: admission, key length, operand length, then the job is latched (R156, R157,
the order of R309). -/
def latchTransform (j : Job) (s : State) : Result :=
  unlessFaulted none s <|
  require (s.job = .none ∧ s.mode = .idle ∧ s.oavail = 0) .protocolError none s <|
  require (s.keylen = 32) .invalidKeyLength none s <|
  require (s.bufcnt = 64) .invalidBlockLength none s <|
  reply none { s with job := j }

/-- `FWD` (R156). -/
def execFwd (s : State) : Result := latchTransform .fwd s

/-- `BWD` (R157). -/
def execBwd (s : State) : Result := latchTransform .bwd s

/-- The state a stream operation starts in (R48, R212, R240). -/
def startState (m : Mode) (s : State) : State :=
  { s with
    mode := m
    chain := s.iv
    pfb := false
    any := false
    heldv := false
    bufcnt := 0
    done := false }

/-- The shared body of `ENC_START` and `DEC_START`: admission, key length, IV length, then the stream is open
(R212, R240, the order of R309). -/
def startStream (m : Mode) (s : State) : Result :=
  unlessFaulted none s <|
  require (s.job = .none ∧ s.mode = .idle ∧ s.oavail = 0) .protocolError none s <|
  require (s.keylen = 32) .invalidKeyLength none s <|
  require (s.ivlen = 64) .invalidIVLength none s <|
  reply none (startState m s)

/-- `ENC_START` (R212). -/
def execEncStart (s : State) : Result := startStream .enc s

/-- `DEC_START` (R240). -/
def execDecStart (s : State) : Result := startStream .dec s

/-- `FINAL`, in both stream modes; in `DEC` mode no ciphertext byte may be left over (R214, R242). -/
def execFinal (s : State) : Result :=
  unlessFaulted none s <|
  require (s.job = .none ∧ s.streaming = true ∧ s.oavail = 0) .protocolError none s <|
  require (s.mode = .dec → s.bufcnt = 0) .invalidBlockLength none s <|
  reply none { s with job := .final }

end Sys2Proof.Machine
end

