-- ==== Sys2Proof/Machine/Control.lean ====
section
/-! DEFINITION. The meanings of `RESET`, `ABORT`, `CLRKEY`, `CLRIV` (R270 to R273) and of the register reads
`RDID`, `RDPARAM`, `RDSTATUS`, `RDLEN` (R274 to R277). -/

namespace Sys2Proof.Machine

/-- `RESET`: in every mode, whether or not a job is pending (R270, R312). -/
def execReset (s : State) : Result := reply none (softReset s)

/-- What `ABORT` discards: the job, the open stream and its buffered input and output; `KEY`, `IV`, their lengths and
`ERR` stay (R271). -/
def abandonStream (s : State) : State :=
  { s with
    job := .none
    mode := .idle
    bufcnt := 0
    olen := 0
    ord := 0
    heldv := false
    pfb := false
    any := false
    done := false }

/-- `ABORT`: in every mode but `FAULT`, whether or not a job is pending (R271, R312). -/
def execAbort (s : State) : Result := unlessFaulted none s <| reply none (abandonStream s)

/-- `CLRKEY`: `KEY <- rep(0x00, 32); KEYLEN <- 0` (R272). -/
def execClrkey (s : State) : Result :=
  unlessFaulted none s <|
  require (s.job = .none ∧ s.mode = .idle) .protocolError none s <|
  reply none { s with key := rep 0x00 32, keylen := 0 }

/-- `CLRIV`: `IV <- rep(0x00, 64); IVLEN <- 0` (R273). -/
def execClriv (s : State) : Result :=
  unlessFaulted none s <|
  require (s.job = .none ∧ s.mode = .idle) .protocolError none s <|
  reply none { s with iv := rep 0x00 64, ivlen := 0 }

/-- `RDID`: in every mode, without effect (R274, R313). -/
def execRdid (s : State) : Result := reply (some idWord) s

/-- `RDPARAM`: in every mode, without effect (R275, R313). -/
def execRdparam (s : State) : Result := reply (some paramWord) s

/-- `RDSTATUS`: in every mode, without effect (R276, R313). -/
def execRdstatus (s : State) : Result := reply (some (statusWord s)) s

/-- `RDLEN`: in every mode, without effect (R277, R313). -/
def execRdlen (s : State) : Result := reply (some (lenWord s)) s

end Sys2Proof.Machine
end

