-- ==== Sys2Proof/Machine/Ports.lean ====
section
/-! DEFINITION. The meanings of the port transactions `PUSHK`, `PUSHIV`, `PUSHD`, `POP` (R184 to R187, R190). -/

namespace Sys2Proof.Machine

/-- `PUSHK`: `n` bytes of key, in lane order (R184). -/
def execPushk (n : Size) (v : Word32) (s : State) : Result :=
  unlessFaulted none s <|
  require (s.job = .none ∧ s.mode = .idle) .protocolError none s <|
  reply none ((lanes n v).foldl pushKeyByte s)

/-- `PUSHIV`: `n` bytes of IV, in lane order (R185). -/
def execPushiv (n : Size) (v : Word32) (s : State) : Result :=
  unlessFaulted none s <|
  require (s.job = .none ∧ s.mode = .idle) .protocolError none s <|
  reply none ((lanes n v).foldl pushIvByte s)

/-- In a stream mode a push that brings `BUFCNT` to 64 or more latches the job `BLOCK` (R186, R187). -/
def latchBlock (s : State) : State :=
  if s.streaming = true ∧ 64 ≤ s.bufcnt.toNat then { s with job := .block } else s

/-- `PUSHD`: `n` bytes of data, one chunk, in lane order. In a stream mode it must leave the buffer short of a block
or find the output drained (R186, R187). -/
def execPushd (n : Size) (v : Word32) (s : State) : Result :=
  unlessFaulted none s <|
  require (s.job = .none) .protocolError none s <|
  require (s.streaming = true → s.bufcnt.toNat + n.bytes < 64 ∨ s.oavail = 0) .protocolError none s <|
  reply none (latchBlock ((lanes n v).foldl pushBufByte s))

/-- `POP`: `n` bytes of output, or an underrun that pops nothing and returns 0 (R190, R313). -/
def execPop (n : Size) (s : State) : Result :=
  unlessFaulted (some 0) s <|
  require (n.bytes ≤ s.oavail) .protocolError (some 0) s <|
  reply (some (fromLanes (popBytes n s))) (advanceOutput n s)

end Sys2Proof.Machine
end

