-- ==== Sys2Proof/Machine/Dispatch.lean ====
section
/-! DEFINITION. One arm per instruction of the opcode table. -/

namespace Sys2Proof.Machine

-- What a host transaction does (R90); the engine agent's own step is no instruction and stands in Engine.lean.
def exec (i : Instr) (s : State) : Host.Outcome State Fault Refusal :=
  match i with
  | .reset => Sys2Proof.Machine.execReset s
  | .abort => Sys2Proof.Machine.execAbort s
  | .clrkey => Sys2Proof.Machine.execClrkey s
  | .clriv => Sys2Proof.Machine.execClriv s
  | .fwd => Sys2Proof.Machine.execFwd s
  | .bwd => Sys2Proof.Machine.execBwd s
  | .encStart => Sys2Proof.Machine.execEncStart s
  | .decStart => Sys2Proof.Machine.execDecStart s
  | .final => Sys2Proof.Machine.execFinal s
  | .pushk n v => Sys2Proof.Machine.execPushk n v s
  | .pushiv n v => Sys2Proof.Machine.execPushiv n v s
  | .pushd n v => Sys2Proof.Machine.execPushd n v s
  | .pop n => Sys2Proof.Machine.execPop n s
  | .rdid => Sys2Proof.Machine.execRdid s
  | .rdparam => Sys2Proof.Machine.execRdparam s
  | .rdstatus => Sys2Proof.Machine.execRdstatus s
  | .rdlen => Sys2Proof.Machine.execRdlen s

end Sys2Proof.Machine
end

