-- ==== Sys2Proof/Machine/Sha256.lean ====
section
/-! DEFINITION. SHA-256 and HMAC-SHA256, as 40_hash_hmac.md writes them out (R121 to R130). -/

namespace Sys2Proof.Machine

/-- `rotr(x, n) = shr(x, n) or ((x * 2^(32-n)) mod 2^32)` (R121). -/
def rotr (x : Word32) (n : Nat) : Word32 := (x >>> n) ||| (x <<< (32 - n))

/-- `ssig0` of the message schedule (R126). -/
def ssig0 (x : Word32) : Word32 := rotr x 7 ^^^ rotr x 18 ^^^ (x >>> 3)

/-- `ssig1` of the message schedule (R126). -/
def ssig1 (x : Word32) : Word32 := rotr x 17 ^^^ rotr x 19 ^^^ (x >>> 10)

/-- `bsig0` of the compression (R127). -/
def bsig0 (x : Word32) : Word32 := rotr x 2 ^^^ rotr x 13 ^^^ rotr x 22

/-- `bsig1` of the compression (R127). -/
def bsig1 (x : Word32) : Word32 := rotr x 6 ^^^ rotr x 11 ^^^ rotr x 25

/-- `ch(x, y, z)` (R127). -/
def ch (x y z : Word32) : Word32 := (x &&& y) ^^^ (~~~x &&& z)

/-- `maj(x, y, z)` (R127). -/
def maj (x y z : Word32) : Word32 := (x &&& y) ^^^ (x &&& z) ^^^ (y &&& z)

/-- The round constants `K[0..63]` (R123). -/
def roundConstants : List Word32 :=
  [0x428a2f98, 0x71374491, 0xb5c0fbcf, 0xe9b5dba5, 0x3956c25b, 0x59f111f1, 0x923f82a4, 0xab1c5ed5] ++
  [0xd807aa98, 0x12835b01, 0x243185be, 0x550c7dc3, 0x72be5d74, 0x80deb1fe, 0x9bdc06a7, 0xc19bf174] ++
  [0xe49b69c1, 0xefbe4786, 0x0fc19dc6, 0x240ca1cc, 0x2de92c6f, 0x4a7484aa, 0x5cb0a9dc, 0x76f988da] ++
  [0x983e5152, 0xa831c66d, 0xb00327c8, 0xbf597fc7, 0xc6e00bf3, 0xd5a79147, 0x06ca6351, 0x14292967] ++
  [0x27b70a85, 0x2e1b2138, 0x4d2c6dfc, 0x53380d13, 0x650a7354, 0x766a0abb, 0x81c2c92e, 0x92722c85] ++
  [0xa2bfe8a1, 0xa81a664b, 0xc24b8b70, 0xc76c51a3, 0xd192e819, 0xd6990624, 0xf40e3585, 0x106aa070] ++
  [0x19a4c116, 0x1e376c08, 0x2748774c, 0x34b0bcb5, 0x391c0cb3, 0x4ed8aa4a, 0x5b9cca4f, 0x682e6ff3] ++
  [0x748f82ee, 0x78a5636f, 0x84c87814, 0x8cc70208, 0x90befffa, 0xa4506ceb, 0xbef9a3f7, 0xc67178f2]

/-- The eight words of a chaining value `H[0..7]`, or of the working words `a..h` (R35, R127). -/
structure HashWords where
  a : Word32
  b : Word32
  c : Word32
  d : Word32
  e : Word32
  f : Word32
  g : Word32
  h : Word32
  deriving DecidableEq, Repr

/-- The initial hash value `H0[0..7]` (R124). -/
def initialHash : HashWords where
  a := 0x6a09e667
  b := 0xbb67ae85
  c := 0x3c6ef372
  d := 0xa54ff53a
  e := 0x510e527f
  f := 0x9b05688c
  g := 0x1f83d9ab
  h := 0x5be0cd19

/-- `be32` on every four bytes in turn, first byte most significant (R122, R126). -/
def be32Words : List Byte → List Word32
  | b0 :: b1 :: b2 :: b3 :: rest => (b0 ++ b1 ++ b2 ++ b3) :: be32Words rest
  | _ => []

/-- `bytes32(w)`, most significant byte first (R122). -/
def bytes32 (w : Word32) : List Byte :=
  [w.extractLsb' 24 8, w.extractLsb' 16 8, w.extractLsb' 8 8, w.extractLsb' 0 8]

/-- `be64(n)`, most significant byte first (R122). -/
def be64 (n : Nat) : List Byte :=
  (List.range 8).map fun j => (BitVec.ofNat 64 n).extractLsb' (8 * (7 - j)) 8

/-- `padded(M) = M ‖ [0x80] ‖ rep(0, z) ‖ be64(8 * len(M))` with `z = (55 - len(M)) mod 64` (R125). -/
def paddedMessage (m : List Byte) : List Byte :=
  m ++ [0x80] ++ List.replicate ((119 - m.length % 64) % 64) 0x00 ++ be64 (8 * m.length)

/-- `n` further words of a schedule held newest first: `W[t-2]`, `W[t-7]`, `W[t-15]`, `W[t-16]` are its elements
1, 6, 14 and 15 (R126). -/
def extendSchedule : Nat → List Word32 → List Word32
  | 0, w => w
  | n + 1, w =>
    extendSchedule n ((ssig1 (w.getD 1 0) + w.getD 6 0 + ssig0 (w.getD 14 0) + w.getD 15 0) :: w)

/-- The message schedule `W[0..63]` of one 64-byte block (R126). -/
def schedule (block : List Byte) : List Word32 := (extendSchedule 48 (be32Words block).reverse).reverse

/-- One iteration of the compression, on a pair `(K[t], W[t])` (R127). -/
def hashRound (s : HashWords) (kw : Word32 × Word32) : HashWords :=
  let t1 := s.h + bsig1 s.e + ch s.e s.f s.g + kw.1 + kw.2
  let t2 := bsig0 s.a + maj s.a s.b s.c
  { a := t1 + t2, b := s.a, c := s.b, d := s.c, e := s.d + t1, f := s.e, g := s.f, h := s.g }

/-- `compress(H, B)` (R127). -/
def compress (s : HashWords) (block : List Byte) : HashWords :=
  let r := (roundConstants.zip (schedule block)).foldl hashRound s
  { a := s.a + r.a, b := s.b + r.b, c := s.c + r.c, d := s.d + r.d,
    e := s.e + r.e, f := s.f + r.f, g := s.g + r.g, h := s.h + r.h }

/-- The first `n` blocks of 64 bytes of a sequence (R125). -/
def hashBlocks : Nat → List Byte → List (List Byte)
  | 0, _ => []
  | n + 1, m => m.take 64 :: hashBlocks n (m.drop 64)

/-- The digest of a chaining value: the eight words in order, each most significant byte first (R128). -/
def digestBytes (s : HashWords) : List Byte :=
  [s.a, s.b, s.c, s.d, s.e, s.f, s.g, s.h].flatMap bytes32

/-- `SHA256(M)` (R128); total, where the spec takes `len(M) < 2^61` (log 10). -/
def sha256 (m : List Byte) : Bytes 32 :=
  fit 32 (digestBytes ((hashBlocks ((paddedMessage m).length / 64) (paddedMessage m)).foldl compress initialHash))

/-- `K0`: the HMAC key brought to 64 bytes, a longer one by hashing it first (R129). -/
def hmacKeyBlock (key : List Byte) : Block :=
  fit 64 (if key.length > 64 then (sha256 key).toList else key)

/-- `HMAC(K, M)` (R129). -/
def hmac (key message : List Byte) : Bytes 32 :=
  let inner := sha256 ((xorBytes (hmacKeyBlock key) (rep 0x36 64)).toList ++ message)
  sha256 ((xorBytes (hmacKeyBlock key) (rep 0x5c 64)).toList ++ inner.toList)

end Sys2Proof.Machine
end

