-- ==== Sys2Proof/Machine/Feistel.lean ====
section
/-! DEFINITION. RoundKeyDeriver and FeistelTransform (R150 to R154), on values of fixed length, and the checked
versions on byte sequences of any length with SRC0's named errors (R11, R150, R152). -/

namespace Sys2Proof.Machine

/-- `derive(key, i) = HMAC(key, [i])`, the message being the byte of value `i` (R150, R151). -/
def derive (key : Key) (i : Fin 16) : Half := hmac key.toList [BitVec.ofNat 8 i.val]

/-- The two halves `L` and `R` of a block (R34). -/
structure Halves where
  left : Half
  right : Half
  deriving DecidableEq, Repr

/-- `L <- block[0..31]; R <- block[32..63]` (R152, R72). -/
def splitBlock (b : Block) : Halves where
  left := Vector.ofFn fun i => b[i.val]
  right := Vector.ofFn fun i => b[32 + i.val]

/-- `L ‖ R` (R152, R72). -/
def joinHalves (h : Halves) : Block := h.left ++ h.right

/-- One forward round: `(L, R) <- (R, L xor HMAC(derive(key, i), R))` (R152). -/
def forwardRound (key : Key) (h : Halves) (i : Fin 16) : Halves where
  left := h.right
  right := xorBytes h.left (hmac (derive key i).toList h.right.toList)

/-- One backward round: `(L, R) <- (R xor HMAC(derive(key, i), L), L)` (R153). -/
def backwardRound (key : Key) (h : Halves) (i : Fin 16) : Halves where
  left := xorBytes h.right (hmac (derive key i).toList h.left.toList)
  right := h.left

/-- The round indices 0, 1, ..., 15 (R152). -/
def roundIndices : List (Fin 16) := [0, 1, 2, 3, 4, 5, 6, 7, 8, 9, 10, 11, 12, 13, 14, 15]

/-- `forward(key, block)`: rounds 0 to 15, no final swap (R152). -/
def forward (key : Key) (b : Block) : Block := joinHalves (roundIndices.foldl (forwardRound key) (splitBlock b))

/-- `backward(key, block)`: rounds 15 to 0 (R153). -/
def backward (key : Key) (b : Block) : Block :=
  joinHalves (roundIndices.reverse.foldl (backwardRound key) (splitBlock b))

/-- A byte sequence as a value of fixed length, or SRC0's error for a wrong length (R11). -/
def checkLength (n : Nat) (code : FaultCode) (s : List Byte) : Except FaultCode (Bytes n) :=
  if s.length = n then .ok (fit n s) else .error code

/-- `derive` on a byte sequence: fails with `InvalidKeyLength` unless the key has 32 bytes (R150). -/
def deriveChecked (key : List Byte) (i : Fin 16) : Except FaultCode Half :=
  match checkLength 32 .invalidKeyLength key with
  | .error e => .error e
  | .ok k => .ok (derive k i)

/-- A transform on byte sequences: fails with `InvalidKeyLength`, else with `InvalidBlockLength` (R152, R153). -/
def transformChecked (f : Key → Block → Block) (key block : List Byte) : Except FaultCode Block :=
  match checkLength 32 .invalidKeyLength key, checkLength 64 .invalidBlockLength block with
  | .error e, _ => .error e
  | .ok _, .error e => .error e
  | .ok k, .ok b => .ok (f k b)

/-- `forward` on byte sequences (R152). -/
def forwardChecked (key block : List Byte) : Except FaultCode Block := transformChecked forward key block

/-- `backward` on byte sequences (R153). -/
def backwardChecked (key block : List Byte) : Except FaultCode Block := transformChecked backward key block

end Sys2Proof.Machine
end

