-- ==== Sys2Proof/Machine/Stream.lean ====
section
/-! DEFINITION. The function layer of the streams: StreamBlockizer (R180), PaddingScheme (R210, R244), `encrypt`
(R216) and `decrypt` (R246). -/

namespace Sys2Proof.Machine

/-- The blocks of `size` bytes at the front of a buffer, at most `n` of them, and what remains (the inner loop of
R180). -/
def cutBlocks (size : Nat) : Nat → List Byte → List (List Byte) × List Byte
  | 0, buf => ([], buf)
  | n + 1, buf =>
    if size ≤ buf.length then
      let r := cutBlocks size n (buf.drop size)
      (buf.take size :: r.1, r.2)
    else ([], buf)

/-- The blockizer holding `buf` with the chunks still to come: whole blocks as they fill, and what remains at the
end unless it is empty (R180). -/
def blockizeFrom (size : Nat) : List Byte → List (List Byte) → List (List Byte)
  | buf, [] => if buf = [] then [] else [buf]
  | buf, c :: cs =>
    let r := cutBlocks size (buf ++ c).length (buf ++ c)
    r.1 ++ blockizeFrom size r.2 cs

/-- `blockize(chunks, size)`, `size ≥ 1` (R180). -/
def blockize (chunks : List (List Byte)) (size : Nat) : List (List Byte) := blockizeFrom size [] chunks

/-- `pad(b) = b ‖ rep(p, p)` with `p = 64 - len(b)` (R210); a sequence of 64 bytes is unchanged. -/
def pad (b : List Byte) : List Byte := b ++ List.replicate (64 - b.length) (BitVec.ofNat 8 (64 - b.length))

/-- The marker block `rep(0x40, 64)` (R13, R210). -/
def markerBlock : Block := rep 0x40 64

/-- The chaining step: a plaintext block under the mask of the chain state (R211). -/
def cipherBlock (key : Key) (chain b : Block) : Block := xorBytes b (forward key chain)

/-- The encryptor's loop over the blocks that the blockizer produces, and the marker at the end (R216). -/
def encryptFrom (key : Key) (chain : Block) (pfb any : Bool) : List (List Byte) → List Block
  | [] => if pfb || !any then [cipherBlock key chain markerBlock] else []
  | b :: bs =>
    let c := cipherBlock key chain (fit 64 (pad b))
    c :: encryptFrom key c (decide (64 ≤ b.length)) true bs

/-- `encrypt(key, iv, chunks)` for a key and an IV of the right lengths (R216). -/
def encrypt (key : Key) (iv : Block) (chunks : List (List Byte)) : List Block :=
  encryptFrom key iv false false (blockize chunks 64)

/-- `final_rule(h)`: nothing for the marker block; else the bytes before a valid padding; else the block as it is
(R244). -/
def finalRule (h : Block) : Option (List Byte) :=
  if h = markerBlock then none
  else if 1 ≤ h[63].toNat ∧ h[63].toNat < 64 ∧ ∀ b ∈ h.toList.drop (64 - h[63].toNat), b = h[63] then
    some (h.toList.take (64 - h[63].toNat))
  else some h.toList

/-- The decryptor's loop, with the chain state and the held block (R246). -/
def decryptFrom (key : Key) (chain : Block) (held : Option Block) : List Block → List (List Byte)
  | [] =>
    match held with
    | none => []
    | some h => (finalRule h).toList
  | c :: cs => (held.map Vector.toList).toList ++ decryptFrom key c (some (cipherBlock key chain c)) cs

/-- `decrypt(key, iv, blocks)` for a key and an IV of the right lengths; every block has 64 bytes by type
(R246, U4). -/
def decrypt (key : Key) (iv : Block) (blocks : List Block) : List (List Byte) := decryptFrom key iv none blocks

/-- The chaining of R217: `c_j = p_j xor forward(key, c_(j-1))`, `c_(-1)` being the given chain state. -/
def cipherChain (key : Key) (chain : Block) : List Block → List Block
  | [] => []
  | b :: bs => cipherBlock key chain b :: cipherChain key (cipherBlock key chain b) bs

/-- The recovery of R245: `p_j = c_j xor forward(key, c_(j-1))`, `c_(-1)` being the given chain state. -/
def plainChain (key : Key) (chain : Block) : List Block → List Block
  | [] => []
  | c :: cs => cipherBlock key chain c :: plainChain key c cs

/-- The first `n` blocks of a byte sequence (R217). -/
def blocksOf : Nat → List Byte → List Block
  | 0, _ => []
  | n + 1, s => fit 64 (s.take 64) :: blocksOf n (s.drop 64)

/-- `P' = P ‖ rep(64 - r, 64 - r)` with `r = len(P) mod 64`: the always-pad form of the padding (R217). -/
def padStream (p : List Byte) : List Byte :=
  p ++ List.replicate (64 - p.length % 64) (BitVec.ofNat 8 (64 - p.length % 64))

/-- A stream function on byte sequences: fails with `InvalidKeyLength`, else with `InvalidIVLength`, before any
output (R216, R246). -/
def streamChecked {α : Type} (f : Key → Block → α) (key iv : List Byte) : Except FaultCode α :=
  match checkLength 32 .invalidKeyLength key, checkLength 64 .invalidIVLength iv with
  | .error e, _ => .error e
  | .ok _, .error e => .error e
  | .ok k, .ok v => .ok (f k v)

/-- `encrypt` on byte sequences (R216). -/
def encryptChecked (key iv : List Byte) (chunks : List (List Byte)) : Except FaultCode (List Block) :=
  streamChecked (fun k v => encrypt k v chunks) key iv

/-- `decrypt` on byte sequences (R246). -/
def decryptChecked (key iv : List Byte) (blocks : List Block) : Except FaultCode (List (List Byte)) :=
  streamChecked (fun k v => decrypt k v blocks) key iv

end Sys2Proof.Machine
end

