-- ==== Sys2Proof/Machine/Engine.lean ====
section
/-! DEFINITION. The engine agent: one atomic step for each pending job (R279), none of which can fault (R300). -/

namespace Sys2Proof.Machine

/-- The job `FWD`: the operand is consumed, the result is the output block (R158). -/
def jobFwd (s : State) : State :=
  { emitBlock (forward s.key (bufBlock s)) s with bufcnt := 0, job := .none }

/-- The job `BWD` (R159). -/
def jobBwd (s : State) : State :=
  { emitBlock (backward s.key (bufBlock s)) s with bufcnt := 0, job := .none }

/-- Step 3 of the encryptor, the chaining step on a plaintext block: emit the cipher block, which is the next chain
state (R211). -/
def chainStep (b : Block) (s : State) : State :=
  { emitBlock (cipherBlock s.key s.chain b) s with chain := cipherBlock s.key s.chain b }

/-- The job `BLOCK` in `ENC` mode (R213, R188). -/
def jobEncBlock (s : State) : State :=
  { shiftBuf (chainStep (bufBlock s) s) with pfb := true, any := true, job := .none }

/-- The job `BLOCK` in `DEC` mode: a held block is emitted whole, the new plaintext is held (R241, R188). -/
def jobDecBlock (s : State) : State :=
  let out := if s.heldv = true then emitBlock s.held s else s
  { shiftBuf out with
    held := cipherBlock s.key s.chain (bufBlock s)
    chain := bufBlock s
    heldv := true
    job := .none }

/-- What the job `FINAL` in `ENC` mode emits: the padded remainder, or the marker block where it is needed (R215). -/
def encTail (s : State) : State :=
  if 0 < s.bufcnt.toNat then { chainStep (fit 64 (pad (bufBytes s))) s with pfb := false, any := true }
  else if s.markerNeeded = true then chainStep markerBlock s
  else s

/-- The job `FINAL` in `ENC` mode (R215). -/
def jobEncFinal (s : State) : State :=
  { encTail s with bufcnt := 0, mode := .idle, done := true, job := .none }

/-- What the job `FINAL` in `DEC` mode emits: the held block under the final-block rule (R243, R244). -/
def decTail (s : State) : State :=
  if s.heldv = true then
    match finalRule s.held with
    | none => s
    | some f => emitBytes f s
  else s

/-- The job `FINAL` in `DEC` mode (R243). -/
def jobDecFinal (s : State) : State :=
  { decTail s with heldv := false, mode := .idle, done := true, job := .none }

/-- `EngineStep`, dispatched on (`JOB`, `MODE`). It is enabled only when `JOB ≠ NONE`; without a job the engine does
nothing (R279, R323), and in a pair outside the table, which no run reaches, the step is a no-op (U15; log 7). -/
def engineStep (s : State) : State :=
  match s.job, s.mode with
  | .fwd, .idle => jobFwd s
  | .bwd, .idle => jobBwd s
  | .block, .enc => jobEncBlock s
  | .block, .dec => jobDecBlock s
  | .final, .enc => jobEncFinal s
  | .final, .dec => jobDecFinal s
  | _, _ => s

end Sys2Proof.Machine
end

