-- ==== Sys2Proof/Machine/Step.lean ====
section
/-! DEFINITION. One step of the machine: the next event of the run (R7, R68), and how a transaction is put where the
step takes its next event from. -/

namespace Sys2Proof.Machine

/-- A host transaction: the instruction that the descriptor decodes to, or what the engine does with one that is no
instruction (R90, R103). -/
def execTransaction (t : Descriptor) (s : State) : Result :=
  match decode t with
  | .ok i => exec i s
  | .error e => execUndecoded e s

/-- One step: the next event takes effect, atomically and on the state the step before left (R67, R68). -/
def step (s : State) : Host.Outcome State Fault Refusal :=
  match nextEvent s with
  | .transaction t => execTransaction t (takeEvent s)
  | .engine => reply none (engineStep (takeEvent s))
  | .hardwareReset => reply none (softReset (takeEvent s))

/-- The state with the transaction of descriptor `w` on the bus, before every other event, so that the very next step
runs it. A word with a bit above the descriptor's 41 is no transaction, and the bus stays as it is (log 12, 13). -/
def State.withFetchWord (s : State) (_nbits w : Nat) : State :=
  if w < 2 ^ 41 then offer (BitVec.ofNat 41 w) s else s

end Sys2Proof.Machine
end

