-- ==== Sys2Proof/Safety.lean ====
section
/-! DEFINITION. The invariants of every state reachable from reset (R36), the state the host can see (R20, R37), and
the relations that tie a stream operation in progress to the function layer (R221, R251). -/

namespace Sys2Proof.Machine

/-- R36(a): `0 ≤ ORD ≤ OLEN ≤ 64`, and `OLEN = 0` implies `ORD = 0`. -/
def State.outputWithin (s : State) : Prop :=
  s.ord.toNat ≤ s.olen.toNat ∧ s.olen.toNat ≤ 64 ∧ (s.olen = 0 → s.ord = 0)

/-- R36(b): `JOB ≠ NONE` implies `OAVAIL = 0` and `MODE ≠ FAULT`. -/
def State.jobNeedsRoom (s : State) : Prop := s.job ≠ .none → s.oavail = 0 ∧ s.mode ≠ .fault

/-- R36(c): `JOB ∈ {FWD, BWD}` implies `MODE = IDLE`, `KEYLEN = 32`, `BUFCNT = 64`. -/
def State.transformLoaded (s : State) : Prop :=
  s.job = .fwd ∨ s.job = .bwd → s.mode = .idle ∧ s.keylen = 32 ∧ s.bufcnt = 64

/-- R36(d): `JOB ∈ {BLOCK, FINAL}` implies `MODE ∈ {ENC, DEC}`. -/
def State.streamJobOpen (s : State) : Prop :=
  s.job = .block ∨ s.job = .final → s.mode = .enc ∨ s.mode = .dec

/-- R36(e): `MODE ∈ {ENC, DEC}` implies `KEYLEN = 32` and `IVLEN = 64`. -/
def State.streamLengths (s : State) : Prop :=
  s.mode = .enc ∨ s.mode = .dec → s.keylen = 32 ∧ s.ivlen = 64

/-- R36(f): the bounds of `BUFCNT` in the stream modes. -/
def State.bufferBounds (s : State) : Prop :=
  ((s.mode = .enc ∨ s.mode = .dec) ∧ s.job ≠ .block → s.bufcnt.toNat ≤ 63) ∧
  (s.job = .block → 64 ≤ s.bufcnt.toNat ∧ s.bufcnt.toNat ≤ 67) ∧
  (s.job = .final ∧ s.mode = .dec → s.bufcnt = 0)

/-- R36(g): `MODE = FAULT` iff `ERR ≠ 0`, and what a fault has discarded stays discarded. -/
def State.faultDiscards (s : State) : Prop :=
  (s.mode = .fault ↔ s.err ≠ none) ∧
  (s.mode = .fault → s.job = .none ∧ s.olen = 0 ∧ s.bufcnt = 0 ∧ s.heldv = false ∧ s.done = false)

/-- R36(h): `MODE = ENC` implies `HELDV = 0`; `MODE = DEC` implies `PFB = 0` and `ANY = 0`. -/
def State.modeFlags (s : State) : Prop :=
  (s.mode = .enc → s.heldv = false) ∧ (s.mode = .dec → s.pfb = false ∧ s.any = false)

/-- R36(i): in `MODE = ENC` with `JOB ≠ FINAL`, `ANY = PFB`; and the marker condition holds at an encryptor `FINAL`
step with `BUFCNT = 0`. -/
def State.markerFlags (s : State) : Prop :=
  (s.mode = .enc ∧ s.job ≠ .final → s.any = s.pfb) ∧
  (s.mode = .enc ∧ s.job = .final ∧ s.bufcnt = 0 → s.markerNeeded = true)

/-- The invariants (a) to (i) of R36. -/
structure State.Inv (s : State) : Prop where
  outputWithin : s.outputWithin
  jobNeedsRoom : s.jobNeedsRoom
  transformLoaded : s.transformLoaded
  streamJobOpen : s.streamJobOpen
  streamLengths : s.streamLengths
  bufferBounds : s.bufferBounds
  faultDiscards : s.faultDiscards
  modeFlags : s.modeFlags
  markerFlags : s.markerFlags

/-- What a host can observe of the state by register reads and pops: everything but the bytes of `KEY`, `IV`, `BUF`,
`CHAIN` and `HELD` (R20, R37, R319). -/
def State.hideSecrets (s : State) : State :=
  { s with key := rep 0 32, iv := rep 0 64, buf := rep 0 67, chain := rep 0 64, held := rep 0 64 }

/-- The bytes still to pop, in order: `OBUF[ORD..OLEN-1]` (R24). -/
def State.unread (s : State) : List Byte := (s.obuf.toList.take s.olen.toNat).drop s.ord.toNat

/-- A byte array after `n` bytes of `v` were pushed at count `c`: the bytes that fit stand at `c, c+1, ...`
(R184 to R186). -/
def pushedBytes {m : Nat} (a : Bytes m) (c : Nat) (n : Size) (v : Word32) : Bytes m :=
  Vector.ofFn fun i => if c ≤ i.val ∧ i.val < c + n.bytes then lane v (i.val - c) else a[i]

/-- A counter after `n` bytes were pushed (R132, R184 to R186). -/
def pushedCount (c : BitVec 8) (n : Size) : BitVec 8 := BitVec.ofNat 8 (min (c.toNat + n.bytes) 255)

/-- `BUF` after the shift: the `r` bytes from position 64 on stand at the front (R188). -/
def shiftedBytes (a : Bytes 67) (r : Nat) : Bytes 67 :=
  Vector.ofFn fun i => if i.val < r then a[64 + i.val]?.getD a[i] else a[i]

/-- A transaction whose offset, size and direction the register map has (R61, R62, R64, R65). -/
def wellAddressed (t : Descriptor) : Prop :=
  if Descriptor.isWrite t = true then
    (Descriptor.off t = 0x08 ∧ Descriptor.sz t = 2) ∨
      (Descriptor.off t ∈ [0x10#6, 0x14#6, 0x18#6] ∧ Descriptor.sz t ≠ 3)
  else
    (Descriptor.off t ∈ [0x00#6, 0x04#6, 0x0C#6, 0x20#6] ∧ Descriptor.sz t = 2) ∨
      (Descriptor.off t = 0x1C ∧ Descriptor.sz t ≠ 3)

/-- The nine values of a `CMD` write that are commands (R92, R95 to R97). -/
def commandValues : List Word32 := [0x01, 0x02, 0x03, 0x04, 0x10, 0x11, 0x20, 0x21, 0x22]

/-- A descriptor as a host writes it: the data field of a read is 0, the value of an `n`-byte write is below
`2^(8n)` (R91). -/
def canonical (t : Descriptor) : Prop :=
  if Descriptor.isWrite t = true then
    (Descriptor.sz t = 0 → (Descriptor.data t).toNat < 2 ^ 8) ∧
      (Descriptor.sz t = 1 → (Descriptor.data t).toNat < 2 ^ 16)
  else Descriptor.data t = 0

/-- The bytes of a sequence of blocks, in order. -/
def flatBlocks (bs : List Block) : List Byte := (bs.map Vector.toList).flatten

/-- An encryption in progress: the bytes `p` have been pushed since `ENC_START` and the blocks `out` have been
emitted. The whole plaintext blocks taken from `BUF` make up the front of `p`, what `BUF` holds is its rest, and the
chain state is the last block emitted (R183, R211, R217, R221). -/
structure EncStream (key : Key) (iv : Block) (p : List Byte) (out : List Block) (s : State) : Prop where
  isEnc : s.mode = .enc
  keyIs : s.key = key
  taken : ∃ plain : List Block, out = cipherChain key iv plain ∧ p = flatBlocks plain ++ bufBytes s
  chainIs : s.chain = out.getLast?.getD iv
  flagsAre : s.pfb = !out.isEmpty ∧ s.any = !out.isEmpty

/-- A decryption in progress: the bytes `c` have been pushed since `DEC_START` and the plaintext blocks `out` have
been emitted. The whole ciphertext blocks taken from `BUF` make up the front of `c`, what `BUF` holds is its rest; of
their plaintext all blocks but the last are emitted and the last is held (R241, R245, R249, R251). -/
structure DecStream (key : Key) (iv : Block) (c : List Byte) (out : List Block) (s : State) : Prop where
  isDec : s.mode = .dec
  keyIs : s.key = key
  taken : ∃ blocks : List Block, c = flatBlocks blocks ++ bufBytes s ∧ s.chain = blocks.getLast?.getD iv ∧
    s.heldv = !blocks.isEmpty ∧ out = (plainChain key iv blocks).dropLast ∧
    (s.heldv = true → (plainChain key iv blocks).getLast? = some s.held)

end Sys2Proof.Machine
end

