-- ==== Sys2Proof/Certificates/Slice0/Obligations.lean ====
section
/-! DEFINITION. The statements about the engine, for the provers. -/

open Sys2Proof Sys2Proof.Machine

/-! ### Encoding -/

/-- Words written out from the opcode map decode to the instruction they stand for (R94). -/
def Obligations.DecodeOfWrittenOutWords : Prop :=
  decode 0x18800000001 = .ok .reset ∧ decode 0x18800000022 = .ok .final ∧
  decode 0x190DDDDDDDD = .ok (.pushk .b4 0xDDDDDDDD) ∧ decode 0x15800000100 = .ok (.pushd .b2 0x0100) ∧
  decode 0x01C00000000 = .ok (.pop .b1) ∧ decode 0x0A000000000 = .ok .rdlen

/-- Decoding an encoded well-formed instruction gives it back, with every operand. -/
def Obligations.DecodeEncodeRoundTrip : Prop :=
  ∀ i : Instr, i.wf = true → decode (encode i) = .ok i

/-- The decoder answers only well-formed instructions, and encoding one gives the transaction back, for every
descriptor a host can write (R91). -/
def Obligations.EncodeDecodeRoundTrip : Prop :=
  ∀ (t : Descriptor) (i : Instr), decode t = .ok i → i.wf = true ∧ (canonical t → encode i = t)

/-- The decoder selects by the masks and patterns of the opcode map: where `sz` is not 3, the row of the decoded
instruction selects the descriptor, and a descriptor that some row selects decodes to an instruction of that row
(R94). -/
def Obligations.DecoderAgreesWithOpcodeMap : Prop :=
  ∀ t : Descriptor, Descriptor.sz t ≠ 3 →
    (∀ i, decode t = .ok i → rowSelects i t = true) ∧
    (∀ i, rowSelects i t = true →
      ∃ j, decode t = .ok j ∧ tablePattern j = tablePattern i ∧ tableMask j = tableMask i)

/-- Which descriptors are no instruction, and how each is refused: `sz = 3` first, then offset, size and direction,
then the command value (R64, R65, R96, R97, R103). -/
def Obligations.UndecodedDescriptorsAreClassified : Prop :=
  ∀ t : Descriptor,
    (decode t = .error .notATransaction ↔ Descriptor.sz t = 3) ∧
    (decode t = .error .illAddressedWrite ↔
      Descriptor.sz t ≠ 3 ∧ Descriptor.isWrite t = true ∧ ¬ wellAddressed t) ∧
    (decode t = .error .illAddressedRead ↔
      Descriptor.sz t ≠ 3 ∧ Descriptor.isWrite t = false ∧ ¬ wellAddressed t) ∧
    (decode t = .error .illegalCommand ↔
      Descriptor.isWrite t = true ∧ Descriptor.sz t = 2 ∧ Descriptor.off t = 0x08 ∧
        Descriptor.data t ∉ commandValues)

/-! ### The step -/

/-- When the next event is a transaction whose descriptor decodes to an instruction, the step is `exec` of it on the
state without that event. The list of events is the model's choice (log 1). -/
def Obligations.StepRunsTheDecodedInstruction : Prop :=
  ∀ (s : State) (t : Descriptor) (rest : List Event) (i : Instr),
    s.inputs = .transaction t :: rest → decode t = .ok i → step s = exec i { s with inputs := rest }

/-- The step on a transaction that is no instruction: outside `FAULT` mode the fault is raised, inside it nothing
changes; an ill-addressed read returns 0; a descriptor with `sz = 3` has no meaning (R64, R65, R96, R97, R306, R307,
R312, R313). The list of events, the field for the value returned and the refusal are the model's choices
(log 1, 3, 4). -/
def Obligations.StepAnswersUndecodedTransactions : Prop :=
  ∀ (s : State) (t : Descriptor) (rest : List Event), s.inputs = .transaction t :: rest →
    (decode t = .error .notATransaction → step s = .refused .notATransaction) ∧
    (s.mode ≠ .fault →
      (decode t = .error .illAddressedWrite →
        step s = .next { raiseFault .busError s with inputs := rest, resp := none }) ∧
      (decode t = .error .illAddressedRead →
        step s = .next { raiseFault .busError s with inputs := rest, resp := some 0 }) ∧
      (decode t = .error .illegalCommand →
        step s = .next { raiseFault .illegalCommand s with inputs := rest, resp := none })) ∧
    (s.mode = .fault →
      (decode t = .error .illAddressedWrite → step s = .next { s with inputs := rest, resp := none }) ∧
      (decode t = .error .illAddressedRead → step s = .next { s with inputs := rest, resp := some 0 }) ∧
      (decode t = .error .illegalCommand → step s = .next { s with inputs := rest, resp := none }))

/-- The engine agent has the turn when the schedule gives it, and when no event is left; without a job the turn changes
nothing (R279, R323, R347). The list of events and the turn at its end are the model's choices (log 1, 2). -/
def Obligations.StepGivesTheEngineItsTurn : Prop :=
  ∀ (s : State) (rest : List Event), s.inputs = .engine :: rest ∨ (s.inputs = [] ∧ rest = []) →
    step s = .next { engineStep { s with inputs := rest } with resp := none } ∧
    (s.job = .none → step s = .next { s with inputs := rest, resp := none })

/-- The two reset sources have the identical effect, in every state: every item of the architectural state takes its
reset value (R341). That the events to come stay is the model's choice (log 9). -/
def Obligations.BothResetSourcesAreIdentical : Prop :=
  ∀ (s : State) (rest : List Event),
    s.inputs = .hardwareReset :: rest ∨ s.inputs = .transaction (encode .reset) :: rest →
    step s = .next { State.reset with inputs := rest }

/-! ### Reset -/

/-- The value of every piece of state after reset, and what the registers then read as (R340). -/
def Obligations.ResetStateValues : Prop :=
  let s := State.reset
  (∀ i (h : i < 32), s.key[i] = 0) ∧ s.keylen = 0 ∧ (∀ i (h : i < 64), s.iv[i] = 0) ∧ s.ivlen = 0 ∧
  (∀ i (h : i < 67), s.buf[i] = 0) ∧ s.bufcnt = 0 ∧ (∀ i (h : i < 64), s.obuf[i] = 0) ∧ s.olen = 0 ∧ s.ord = 0 ∧
  s.oavail = 0 ∧ (∀ i (h : i < 64), s.chain[i] = 0) ∧ (∀ i (h : i < 64), s.held[i] = 0) ∧
  s.heldv = false ∧ s.pfb = false ∧ s.any = false ∧ s.done = false ∧
  s.mode = .idle ∧ s.job = .none ∧ s.err = none ∧
  exec .rdid s = .next { s with resp := some 0x48534643 } ∧
  exec .rdparam s = .next { s with resp := some 0x00104020 } ∧
  exec .rdstatus s = .next { s with resp := some 0 } ∧ exec .rdlen s = .next { s with resp := some 0 }

/-! ### Control commands and register reads -/

/-- `RESET` completes in every state, with the reset state as its result (R270). That the events to come stay is the
model's choice (log 9). -/
def Obligations.ResetCommandResets : Prop :=
  ∀ s : State, exec .reset s = .next { State.reset with inputs := s.inputs }

/-- `ABORT` completes in every mode but `FAULT`: the stream and its buffered data are discarded, everything else
stays; in `FAULT` mode it is ignored (R271). -/
def Obligations.AbortAbandonsTheStream : Prop :=
  ∀ s : State,
    (s.mode ≠ .fault → exec .abort s = .next { s with
      job := .none, mode := .idle, bufcnt := 0, olen := 0, ord := 0, heldv := false, pfb := false, any := false,
      done := false, resp := none }) ∧
    (s.mode = .fault → exec .abort s = .next { s with resp := none })

/-- `CLRKEY` and `CLRIV` complete in `IDLE` mode without a job, and change the key or the IV and its length only;
otherwise, outside `FAULT` mode, each is a `ProtocolError` (R272, R273). -/
def Obligations.ClearCommandsForgetKeyOrIv : Prop :=
  ∀ s : State,
    (s.job = .none ∧ s.mode = .idle →
      exec .clrkey s = .next { s with key := Vector.replicate 32 0, keylen := 0, resp := none } ∧
      exec .clriv s = .next { s with iv := Vector.replicate 64 0, ivlen := 0, resp := none }) ∧
    (s.mode ≠ .fault → ¬ (s.job = .none ∧ s.mode = .idle) →
      exec .clrkey s = .next { raiseFault .protocolError s with resp := none } ∧
      exec .clriv s = .next { raiseFault .protocolError s with resp := none })

/-- `RDID` and `RDPARAM` return their constants in every state and change nothing (R274, R275). -/
def Obligations.ConstantRegistersReadTheirConstants : Prop :=
  ∀ s : State, exec .rdid s = .next { s with resp := some 0x48534643 } ∧
    exec .rdparam s = .next { s with resp := some 0x00104020 }

/-- `RDSTATUS` completes in every state, changes nothing, and the value it returns holds each field of `STATUS` at its
place, with the reserved bits 0 (R40, R276). -/
def Obligations.RdstatusReturnsTheStatusFields : Prop :=
  ∀ s : State, ∃ w : Word32, exec .rdstatus s = .next { s with resp := some w } ∧
    (w.getLsbD 0 = true ↔ s.job ≠ .none) ∧ w.getLsbD 1 = false ∧ w.getLsbD 2 = s.done ∧ w.getLsbD 3 = s.pfb ∧
    w.getLsbD 4 = s.any ∧ w.getLsbD 5 = s.heldv ∧ w.extractLsb' 6 2 = 0 ∧
    w.extractLsb' 8 3 = modeCode s.mode ∧ w.getLsbD 11 = false ∧ w.extractLsb' 12 4 = errCode s.err ∧
    w.extractLsb' 16 3 = jobCode s.job ∧ w.extractLsb' 19 13 = 0

/-- `RDLEN` completes in every state, changes nothing, and the value it returns holds the four counts, a byte each
(R41, R277). -/
def Obligations.RdlenReturnsTheCounts : Prop :=
  ∀ s : State, ∃ w : Word32, exec .rdlen s = .next { s with resp := some w } ∧
    w.extractLsb' 0 8 = s.keylen ∧ w.extractLsb' 8 8 = s.ivlen ∧ w.extractLsb' 16 8 = s.bufcnt ∧
    (w.extractLsb' 24 8).toNat = s.olen.toNat - s.ord.toNat

/-! ### The commands that latch a job or open a stream -/

/-- `FWD` and `BWD` complete, by latching their job and changing nothing else, when no job is pending in `IDLE` mode,
the output is drained, the key has 32 bytes and the operand 64 (R156, R157). -/
def Obligations.TransformCommandsLatchTheirJob : Prop :=
  ∀ s : State, s.job = .none → s.mode = .idle → s.oavail = 0 → s.keylen = 32 → s.bufcnt = 64 →
    exec .fwd s = .next { s with job := .fwd, resp := none } ∧
    exec .bwd s = .next { s with job := .bwd, resp := none }

/-- `ENC_START` and `DEC_START` complete when no job is pending in `IDLE` mode, the output is drained, the key has 32
bytes and the IV 64: the stream is open with the start values, and nothing else changes (R48, R212, R240). -/
def Obligations.StartCommandsOpenAStream : Prop :=
  ∀ s : State, s.job = .none → s.mode = .idle → s.oavail = 0 → s.keylen = 32 → s.ivlen = 64 →
    exec .encStart s = .next { s with
      mode := .enc, chain := s.iv, pfb := false, any := false, heldv := false, bufcnt := 0, done := false,
      resp := none } ∧
    exec .decStart s = .next { s with
      mode := .dec, chain := s.iv, pfb := false, any := false, heldv := false, bufcnt := 0, done := false,
      resp := none }

/-- `FINAL` completes, by latching its job and changing nothing else, when no job is pending in a stream mode, the
output is drained and, in `DEC` mode, no byte is left over (R214). -/
def Obligations.FinalLatchesItsJob : Prop :=
  ∀ s : State, s.job = .none → s.mode = .enc ∨ (s.mode = .dec ∧ s.bufcnt = 0) → s.oavail = 0 →
    exec .final s = .next { s with job := .final, resp := none }

/-- The order of the checks of `FWD`, `BWD`, `ENC_START`, `DEC_START` and `FINAL` outside `FAULT` mode: admission, then
the key length, then the IV or block length; the first failing check decides the fault (R302, R303, R304, R305, R309,
R242). -/
def Obligations.FirstFailingCheckDecidesTheFault : Prop :=
  ∀ s : State, s.mode ≠ .fault →
    (∀ i ∈ [Instr.fwd, .bwd, .encStart, .decStart], ¬ (s.job = .none ∧ s.mode = .idle ∧ s.oavail = 0) →
      exec i s = .next { raiseFault .protocolError s with resp := none }) ∧
    (s.job = .none → s.mode = .idle → s.oavail = 0 →
      (∀ i ∈ [Instr.fwd, .bwd, .encStart, .decStart], s.keylen ≠ 32 →
        exec i s = .next { raiseFault .invalidKeyLength s with resp := none }) ∧
      (∀ i ∈ [Instr.encStart, .decStart], s.keylen = 32 → s.ivlen ≠ 64 →
        exec i s = .next { raiseFault .invalidIVLength s with resp := none }) ∧
      (∀ i ∈ [Instr.fwd, .bwd], s.keylen = 32 → s.bufcnt ≠ 64 →
        exec i s = .next { raiseFault .invalidBlockLength s with resp := none })) ∧
    (¬ (s.job = .none ∧ (s.mode = .enc ∨ s.mode = .dec) ∧ s.oavail = 0) →
      exec .final s = .next { raiseFault .protocolError s with resp := none }) ∧
    (s.job = .none → s.mode = .dec → s.oavail = 0 → s.bufcnt ≠ 0 →
      exec .final s = .next { raiseFault .invalidBlockLength s with resp := none })

/-! ### The ports -/

/-- `PUSHK` completes in `IDLE` mode without a job: the lanes of the write, the least significant first, stand from
position `KEYLEN` on as far as they fit, the count grows by `n` and saturates at 255, and nothing else changes (R63,
R184, R132). -/
def Obligations.PushkStoresItsLanes : Prop :=
  ∀ (s : State) (n : Size) (v : Word32), s.job = .none → s.mode = .idle →
    exec (.pushk n v) s = .next { s with
      key := pushedBytes s.key s.keylen.toNat n v, keylen := pushedCount s.keylen n, resp := none }

/-- `PUSHIV` completes in `IDLE` mode without a job, as `PUSHK` with the IV (R63, R185, R132). -/
def Obligations.PushivStoresItsLanes : Prop :=
  ∀ (s : State) (n : Size) (v : Word32), s.job = .none → s.mode = .idle →
    exec (.pushiv n v) s = .next { s with
      iv := pushedBytes s.iv s.ivlen.toNat n v, ivlen := pushedCount s.ivlen n, resp := none }

/-- `PUSHD` completes without a job in `IDLE` mode, and in a stream mode when it leaves the buffer short of a block or
finds the output drained; it latches `BLOCK` exactly when, in a stream mode, the count reaches 64 (R186, R187). -/
def Obligations.PushdStoresItsLanesAndLatchesBlock : Prop :=
  ∀ (s : State) (n : Size) (v : Word32), s.job = .none →
    s.mode = .idle ∨ ((s.mode = .enc ∨ s.mode = .dec) ∧ (s.bufcnt.toNat + n.bytes < 64 ∨ s.oavail = 0)) →
    exec (.pushd n v) s = .next { s with
      buf := pushedBytes s.buf s.bufcnt.toNat n v
      bufcnt := pushedCount s.bufcnt n
      job := if s.mode ≠ .idle ∧ 64 ≤ s.bufcnt.toNat + n.bytes then .block else .none
      resp := none }

/-- Outside `FAULT` mode a push that the state does not admit is a `ProtocolError`, and so is a `POP` of more bytes
than are available, which pops none and returns 0 (R184, R185, R186, R190, R303). -/
def Obligations.PortTransactionsNotAdmittedFault : Prop :=
  ∀ (s : State) (n : Size) (v : Word32), s.mode ≠ .fault →
    (¬ (s.job = .none ∧ s.mode = .idle) →
      exec (.pushk n v) s = .next { raiseFault .protocolError s with resp := none } ∧
      exec (.pushiv n v) s = .next { raiseFault .protocolError s with resp := none }) ∧
    (s.job ≠ .none ∨ ((s.mode = .enc ∨ s.mode = .dec) ∧ 64 ≤ s.bufcnt.toNat + n.bytes ∧ 0 < s.oavail) →
      exec (.pushd n v) s = .next { raiseFault .protocolError s with resp := none }) ∧
    (s.oavail < n.bytes → exec (.pop n) s = .next { raiseFault .protocolError s with resp := some 0 })

/-- `POP` completes outside `FAULT` mode when at least `n` bytes are available: lane `j` of the value returned is
`OBUF[ORD+j]`, the bits above the size are 0, `ORD` moves on by `n`, popping the last byte empties the buffer, and
nothing else changes (R190). -/
def Obligations.PopReturnsTheNextBytes : Prop :=
  ∀ (s : State) (n : Size), s.mode ≠ .fault → s.outputWithin → n.bytes ≤ s.oavail →
    ∃ w : Word32, exec (.pop n) s = .next { s with
        olen := if s.ord.toNat + n.bytes = s.olen.toNat then 0 else s.olen
        ord := if s.ord.toNat + n.bytes = s.olen.toNat then 0 else s.ord + BitVec.ofNat 7 n.bytes
        resp := some w } ∧
      (∀ j, j < n.bytes → s.obuf[s.ord.toNat + j]? = some (lane w j)) ∧ w.toNat < 2 ^ (8 * n.bytes)

/-- A `POP` takes the front of the unread output: the lanes returned, followed by what is unread afterwards, are what
was unread before (R72, R190). -/
def Obligations.PopTakesTheFrontOfTheOutput : Prop :=
  ∀ (s t : State) (n : Size), s.mode ≠ .fault → s.outputWithin → n.bytes ≤ s.oavail → exec (.pop n) s = .next t →
    ∃ w : Word32, t.resp = some w ∧ lanes n w ++ t.unread = s.unread

/-- A 4-byte push of key or IV has the effect of its four 1-byte pushes in lane order (R73). -/
def Obligations.WidePushIsFourBytePushes : Prop :=
  ∀ (s : State) (v : Word32), s.job = .none → s.mode = .idle →
    ∃ a b c d a' b' c' d' : State,
      exec (.pushk .b1 (v.extractLsb' 0 8 |>.setWidth 32)) s = .next a ∧
      exec (.pushk .b1 (v.extractLsb' 8 8 |>.setWidth 32)) a = .next b ∧
      exec (.pushk .b1 (v.extractLsb' 16 8 |>.setWidth 32)) b = .next c ∧
      exec (.pushk .b1 (v.extractLsb' 24 8 |>.setWidth 32)) c = .next d ∧
      exec (.pushk .b4 v) s = .next d ∧
      exec (.pushiv .b1 (v.extractLsb' 0 8 |>.setWidth 32)) s = .next a' ∧
      exec (.pushiv .b1 (v.extractLsb' 8 8 |>.setWidth 32)) a' = .next b' ∧
      exec (.pushiv .b1 (v.extractLsb' 16 8 |>.setWidth 32)) b' = .next c' ∧
      exec (.pushiv .b1 (v.extractLsb' 24 8 |>.setWidth 32)) c' = .next d' ∧
      exec (.pushiv .b4 v) s = .next d'

/-! ### The engine agent -/

/-- The jobs `FWD` and `BWD`: the transform of `BUF[0..63]` under the key is the output block, the operand is consumed,
the job is done, and nothing else changes (R158, R159). -/
def Obligations.TransformJobsEmitTheTransform : Prop :=
  ∀ (s : State) (b : Block), (∀ i (h : i < 64), b[i] = s.buf[i]) → s.mode = .idle →
    (s.job = .fwd → engineStep s =
      { s with obuf := forward s.key b, olen := 64, ord := 0, bufcnt := 0, job := .none }) ∧
    (s.job = .bwd → engineStep s =
      { s with obuf := backward s.key b, olen := 64, ord := 0, bufcnt := 0, job := .none })

/-- The job `BLOCK` in `ENC` mode: the block under the mask of the chain state is emitted and becomes the chain state,
`PFB` and `ANY` are set, the remainder moves to the front of `BUF`, and nothing else changes (R188, R211, R213). -/
def Obligations.EncryptorBlockStep : Prop :=
  ∀ (s : State) (b : Block), (∀ i (h : i < 64), b[i] = s.buf[i]) → s.job = .block → s.mode = .enc →
    engineStep s = { s with
      obuf := xorBytes b (forward s.key s.chain), olen := 64, ord := 0
      chain := xorBytes b (forward s.key s.chain)
      pfb := true, any := true
      buf := shiftedBytes s.buf (s.bufcnt.toNat - 64), bufcnt := BitVec.ofNat 8 (s.bufcnt.toNat - 64)
      job := .none }

/-- The job `BLOCK` in `DEC` mode: a held block is emitted whole, the new plaintext is held, the chain state is the
ciphertext block, the remainder moves to the front of `BUF`, and nothing else changes (R188, R241). -/
def Obligations.DecryptorBlockStep : Prop :=
  ∀ (s : State) (b : Block), (∀ i (h : i < 64), b[i] = s.buf[i]) → s.job = .block → s.mode = .dec →
    engineStep s = { s with
      obuf := if s.heldv = true then s.held else s.obuf
      olen := if s.heldv = true then 64 else s.olen
      ord := if s.heldv = true then 0 else s.ord
      held := xorBytes b (forward s.key s.chain), heldv := true, chain := b
      buf := shiftedBytes s.buf (s.bufcnt.toNat - 64), bufcnt := BitVec.ofNat 8 (s.bufcnt.toNat - 64)
      job := .none }

/-- The job `FINAL` in `ENC` mode: a remainder of `k` bytes is padded with `64 - k` bytes of that value; without a
remainder the block of sixty-four `0x40` is used, where it is needed; the block is chained and emitted, the stream is
closed with `DONE` set, and nothing else changes (R210, R211, R215). -/
def Obligations.EncryptorFinalStep : Prop :=
  ∀ (s : State) (b : Block), s.job = .final → s.mode = .enc →
    (0 < s.bufcnt.toNat → s.bufcnt.toNat ≤ 63 →
      (∀ i (h : i < 64), b[i] = if i < s.bufcnt.toNat then s.buf[i] else BitVec.ofNat 8 (64 - s.bufcnt.toNat)) →
      engineStep s = { s with
        obuf := xorBytes b (forward s.key s.chain), olen := 64, ord := 0
        chain := xorBytes b (forward s.key s.chain)
        pfb := false, any := true, bufcnt := 0, mode := .idle, done := true, job := .none }) ∧
    (s.bufcnt = 0 → s.pfb = true ∨ s.any = false → (∀ i (h : i < 64), b[i] = 0x40) →
      engineStep s = { s with
        obuf := xorBytes b (forward s.key s.chain), olen := 64, ord := 0
        chain := xorBytes b (forward s.key s.chain)
        bufcnt := 0, mode := .idle, done := true, job := .none }) ∧
    (s.bufcnt = 0 → s.pfb = false → s.any = true →
      engineStep s = { s with bufcnt := 0, mode := .idle, done := true, job := .none })

/-- The job `FINAL` in `DEC` mode: what the final-block rule leaves of a held block is emitted, the stream is closed
with `DONE` set, and nothing else changes (R243). -/
def Obligations.DecryptorFinalStep : Prop :=
  ∀ s : State, s.job = .final → s.mode = .dec →
    (s.heldv = false ∨ finalRule s.held = none →
      engineStep s = { s with heldv := false, mode := .idle, done := true, job := .none }) ∧
    (∀ f, s.heldv = true → finalRule s.held = some f →
      engineStep s = { s with
        obuf := Vector.ofFn fun i => f.getD i.val s.obuf[i]
        olen := BitVec.ofNat 7 f.length, ord := 0
        heldv := false, mode := .idle, done := true, job := .none })

/-- Every engine step of a state that meets the invariant ends with no job pending, changes no key, IV, error code or
event to come, does not enter `FAULT` mode, and the pending job and the mode are a pair of the dispatch table
(R279, U15). -/
def Obligations.EngineStepsEndTheirJob : Prop :=
  ∀ s : State, s.Inv → s.job ≠ .none →
    ((s.job = .fwd ∨ s.job = .bwd) ∧ s.mode = .idle ∨
      (s.job = .block ∨ s.job = .final) ∧ (s.mode = .enc ∨ s.mode = .dec)) ∧
    (engineStep s).job = .none ∧ (engineStep s).mode ≠ .fault ∧ (engineStep s).err = s.err ∧
    (engineStep s).key = s.key ∧ (engineStep s).keylen = s.keylen ∧ (engineStep s).iv = s.iv ∧
    (engineStep s).ivlen = s.ivlen ∧ (engineStep s).inputs = s.inputs

/-- Every encryptor `FINAL` step of a state that meets the invariant emits exactly one block (R215, D34). -/
def Obligations.EncryptorFinalEmitsOneBlock : Prop :=
  ∀ s : State, s.Inv → s.mode = .enc → s.job = .final →
    (engineStep s).oavail = 64 ∧ (engineStep s).obuf = (engineStep s).chain ∧ (engineStep s).mode = .idle ∧
    (engineStep s).done = true ∧ (engineStep s).bufcnt = 0

/-! ### Faults -/

/-- Fault entry: the code is recorded, unless the mode is `FAULT` already; the mode is `FAULT`; the job, the output, the
buffered input, the held block and `DONE` are discarded, and everything else is unchanged (R310). -/
def Obligations.FaultEntryEffect : Prop :=
  ∀ (code : FaultCode) (s : State),
    (s.mode ≠ .fault → raiseFault code s = { s with
      err := some code, mode := .fault, job := .none, olen := 0, ord := 0, bufcnt := 0, heldv := false,
      done := false }) ∧
    (s.mode = .fault → raiseFault code s = { s with
      job := .none, olen := 0, ord := 0, bufcnt := 0, heldv := false, done := false })

/-- In `FAULT` mode every instruction but `RESET` and the four register reads changes nothing; a `POP` returns 0; the
register reads work (R312, R313). -/
def Obligations.FaultModeIgnoresInstructions : Prop :=
  ∀ (s : State) (i : Instr), s.mode = .fault → i ≠ .reset →
    ∃ r : Option Word32, exec i s = .next { s with resp := r } ∧
      (r = match i with
        | .rdid => some 0x48534643
        | .rdparam => some 0x00104020
        | .rdstatus => some (statusWord s)
        | .rdlen => some (lenWord s)
        | .pop _ => some 0
        | _ => none)

/-- `FAULT` mode is left only by a reset: whatever the event, the step changes nothing but the events and the response,
so the first fault's code stays, or it answers the reset state (R30, R314, R315). The events and the response are the
model's own fields (log 1, 3). -/
def Obligations.FaultModeIsLeftOnlyByReset : Prop :=
  ∀ s t : State, s.mode = .fault → step s = .next t →
    t = { s with inputs := t.inputs, resp := t.resp } ∨
    (t = { State.reset with inputs := t.inputs } ∧
      (s.inputs.head? = some .hardwareReset ∨ ∃ d, s.inputs.head? = some (.transaction d) ∧ decode d = .ok .reset))

/-- Every fault is precise: an instruction that enters `FAULT` mode has done fault entry on the state before it and
nothing else (R300). -/
def Obligations.FaultsArePrecise : Prop :=
  ∀ (i : Instr) (s t : State), s.mode ≠ .fault → exec i s = .next t → t.mode = .fault →
    ∃ code, t = { raiseFault code s with resp := t.resp } ∧ (t.resp = none ∨ t.resp = some 0)

/-- While a job is pending, outside `FAULT` mode, the instructions that do not fault are exactly the four register
reads, `RESET` and `ABORT` (R303). -/
def Obligations.BusyAdmitsOnlyReadsResetAbort : Prop :=
  ∀ (i : Instr) (s t : State), s.Inv → s.job ≠ .none → exec i s = .next t →
    (t.mode ≠ .fault ↔ i ∈ [Instr.rdid, .rdparam, .rdstatus, .rdlen, .reset, .abort])

/-! ### Invariants of the whole machine -/

/-- The reset state meets the invariants (R36, R340). -/
def Obligations.ResetMeetsTheInvariants : Prop := State.reset.Inv

/-- Every step keeps the invariants (a) to (i) (R36). -/
def Obligations.StepKeepsTheInvariants : Prop :=
  ∀ s t : State, s.Inv → step s = .next t → t.Inv

/-- While a stream is open or a job is pending, no step changes the key, the IV or their lengths, except a reset, which
clears them (R21, R346). -/
def Obligations.KeyAndIvAreConstantDuringAnOperation : Prop :=
  ∀ s t : State, s.mode ≠ .idle ∨ s.job ≠ .none → step s = .next t →
    (t.key = s.key ∧ t.keylen = s.keylen ∧ t.iv = s.iv ∧ t.ivlen = s.ivlen) ∨
    t = { State.reset with inputs := t.inputs }

/-- Every step either consumes its event or has none left to consume, so the events take effect in the order in which
they stand (R68). The list of events is the model's choice (log 1). -/
def Obligations.EventsTakeEffectInOrder : Prop :=
  ∀ s t : State, step s = .next t → t.inputs = s.inputs.tail

/-- No host transaction discloses a byte of `KEY`, `IV`, `BUF`, `CHAIN` or `HELD`. From two states that differ in those
bytes only, an instruction, and any transaction of the bus whether or not it is an instruction, either has a next state
from both or from neither; where it has, it returns the same value and leaves states that differ in those bytes only
(R37, R64, R65, R90, R319). -/
def Obligations.TransactionsDiscloseNoHiddenByte : Prop :=
  ∀ s t : State, s.hideSecrets = t.hideSecrets →
    (∀ (i : Instr) (s' : State), exec i s = .next s' →
      ∃ t', exec i t = .next t' ∧ s'.resp = t'.resp ∧ s'.hideSecrets = t'.hideSecrets) ∧
    (∀ (d : Descriptor) (s' : State), execTransaction d s = .next s' →
      ∃ t', execTransaction d t = .next t' ∧ s'.resp = t'.resp ∧ s'.hideSecrets = t'.hideSecrets)

/-! ### The function layer -/

/-- The laws of exclusive-or on byte sequences of equal length (R120). -/
def Obligations.XorLaws : Prop :=
  ∀ (n : Nat) (a b c : Bytes n),
    (∀ i (h : i < n), (xorBytes a b)[i] = a[i] ^^^ b[i]) ∧ xorBytes a a = rep 0 n ∧ xorBytes a (rep 0 n) = a ∧
    xorBytes (xorBytes a b) b = a ∧ xorBytes a b = xorBytes b a ∧
    xorBytes (xorBytes a b) c = xorBytes a (xorBytes b c)

/-- Padding for SHA-256: a positive multiple of 64 bytes that begins with the message and `0x80`, with zeros between
and the length in bits, most significant byte first, in the last eight bytes (R125). -/
def Obligations.ShaPaddingFillsWholeBlocks : Prop :=
  ∀ m : List Byte, m.length < 2 ^ 61 → ∃ z, z < 64 ∧
    paddedMessage m = m ++ [0x80] ++ List.replicate z 0 ++ be64 (8 * m.length) ∧
    (paddedMessage m).length % 64 = 0 ∧
    (be64 (8 * m.length)).foldl (fun a b => a * 256 + b.toNat) 0 = 8 * m.length

/-- The word operations of SHA-256 and its packing: `rotr` is rotation to the right, and packing undoes unpacking
(R121, R122). -/
def Obligations.WordOperationsRotateAndPack : Prop :=
  (∀ (x : Word32) (n : Nat), 0 < n → n < 32 →
    rotr x n = x.rotateRight n ∧
      (rotr x n).toNat = x.toNat / 2 ^ n ||| (x.toNat * 2 ^ (32 - n)) % 2 ^ 32) ∧
  (∀ w : Word32, be32Words (bytes32 w) = [w]) ∧
  (∀ b0 b1 b2 b3 : Byte, ∃ w, be32Words [b0, b1, b2, b3] = [w] ∧ bytes32 w = [b0, b1, b2, b3] ∧
    w.toNat = b0.toNat * 2 ^ 24 + b1.toNat * 2 ^ 16 + b2.toNat * 2 ^ 8 + b3.toNat)

/-- HMAC on the keys the engine has: a 32-byte key is xored into the first half of each pad and never hashed first
(R130). -/
def Obligations.HmacOfA32ByteKey : Prop :=
  ∀ (k : Key) (m : List Byte),
    hmac k.toList m =
      sha256 ((xorBytes k (rep 0x5c 32)).toList ++ List.replicate 32 0x5c ++
        (sha256 ((xorBytes k (rep 0x36 32)).toList ++ List.replicate 32 0x36 ++ m)).toList)

/-- `backward` undoes `forward`, and `forward` undoes `backward`, for every key and block (R154). -/
def Obligations.FeistelInverseLaw : Prop :=
  ∀ (key : Key) (b : Block), backward key (forward key b) = b ∧ forward key (backward key b) = b

/-- For a fixed key `forward` is a bijection on blocks, with inverse `backward`, so different chain states give different
masks (R155). -/
def Obligations.ForwardIsABijection : Prop :=
  ∀ key : Key, Function.Bijective (forward key) ∧ Function.LeftInverse (backward key) (forward key) ∧
    Function.RightInverse (backward key) (forward key) ∧ ∀ c c' : Block, c ≠ c' → forward key c ≠ forward key c'

/-- The functions on byte sequences fail with the named error of the first wrong length, and otherwise have the value
of the function (R150, R152, R153, R216, R246). -/
def Obligations.CheckedFunctionsNameTheWrongLength : Prop :=
  ∀ (key block : List Byte) (chunks : List (List Byte)) (blocks : List Block),
    (key.length ≠ 32 → forwardChecked key block = .error .invalidKeyLength ∧
      backwardChecked key block = .error .invalidKeyLength ∧
      encryptChecked key block chunks = .error .invalidKeyLength ∧
      decryptChecked key block blocks = .error .invalidKeyLength ∧
      ∀ i, deriveChecked key i = .error .invalidKeyLength) ∧
    (key.length = 32 → block.length ≠ 64 → forwardChecked key block = .error .invalidBlockLength ∧
      backwardChecked key block = .error .invalidBlockLength ∧
      encryptChecked key block chunks = .error .invalidIVLength ∧
      decryptChecked key block blocks = .error .invalidIVLength) ∧
    (∀ (k : Key) (b : Block), key = k.toList → block = b.toList →
      forwardChecked key block = .ok (forward k b) ∧ backwardChecked key block = .ok (backward k b) ∧
      encryptChecked key block chunks = .ok (encrypt k b chunks) ∧
      decryptChecked key block blocks = .ok (decrypt k b blocks) ∧
      ∀ i, deriveChecked key i = .ok (derive k i))

/-- The blockizer keeps the bytes and their order; it cuts whole blocks of `size`, and after them, if bytes are left,
one block of them; it depends on the chunks only through their concatenation; from empty chunks it makes no block
(R181). -/
def Obligations.BlockizerProperties : Prop :=
  ∀ (size : Nat) (chunks : List (List Byte)), 0 < size →
    (blockize chunks size).flatten = chunks.flatten ∧
    (blockize chunks size).length =
      chunks.flatten.length / size + (if chunks.flatten.length % size = 0 then 0 else 1) ∧
    (∀ b ∈ (blockize chunks size).dropLast, b.length = size) ∧
    (∀ b ∈ (blockize chunks size).getLast?, 1 ≤ b.length ∧ b.length ≤ size ∧
      b.length = if chunks.flatten.length % size = 0 then size else chunks.flatten.length % size) ∧
    (∀ chunks' : List (List Byte), chunks'.flatten = chunks.flatten → blockize chunks' size = blockize chunks size) ∧
    (∀ n : Nat, blockize (List.replicate n []) size = [])

/-- The closed form of `encrypt`: the padded stream, cut into blocks, chained (R217), so that the number of blocks is
`floor(len(P)/64) + 1` (R218). -/
def Obligations.EncryptClosedForm : Prop :=
  ∀ (key : Key) (iv : Block) (chunks : List (List Byte)),
    encrypt key iv chunks =
      cipherChain key iv (blocksOf (chunks.flatten.length / 64 + 1) (padStream chunks.flatten)) ∧
    (padStream chunks.flatten).length = 64 * (chunks.flatten.length / 64 + 1) ∧
    (encrypt key iv chunks).length = chunks.flatten.length / 64 + 1

/-- An empty plaintext, in any number of empty chunks, is encrypted to the marker block alone (R219). -/
def Obligations.EmptyInputGivesTheMarkerBlock : Prop :=
  ∀ (key : Key) (iv : Block) (n : Nat),
    encrypt key iv (List.replicate n []) = [xorBytes (rep 0x40 64) (forward key iv)]

/-- Different IVs give different ciphertexts of equal length, for every key and plaintext (R223). -/
def Obligations.EncryptIsIvSensitive : Prop :=
  ∀ (key : Key) (iv iv' : Block) (chunks : List (List Byte)), iv ≠ iv' →
    encrypt key iv chunks ≠ encrypt key iv' chunks ∧
    (encrypt key iv chunks).length = (encrypt key iv' chunks).length

/-- The final-block rule: nothing for the marker block; 64 - v bytes for a valid padding of `v` bytes; otherwise the
block as it is (R244). -/
def Obligations.FinalRuleCases : Prop :=
  ∀ h : Block,
    ((∀ i (_ : i < 64), h[i] = 0x40) → finalRule h = none) ∧
    (∀ v, 1 ≤ v → v < 64 → (∀ i (_ : i < 64), 64 - v ≤ i → h[i].toNat = v) →
      finalRule h = some (h.toList.take (64 - v))) ∧
    ((¬ ∀ i (_ : i < 64), h[i] = 0x40) →
      (¬ ∃ v, 1 ≤ v ∧ v < 64 ∧ ∀ i (_ : i < 64), 64 - v ≤ i → h[i].toNat = v) →
      finalRule h = some h.toList)

/-- Decrypting an encrypted byte sequence gives it back, for every key, IV and byte sequence, of any length (R247). -/
def Obligations.DecryptUndoesEncrypt : Prop :=
  ∀ (key : Key) (iv : Block) (p : List Byte), (decrypt key iv (encrypt key iv [p])).flatten = p

/-- A damaged ciphertext block garbles its own plaintext block and the next one and no others; the last ciphertext block
garbles its own only. The plaintext blocks before and after them do not depend on it (R241, R245). -/
def Obligations.DamageReachesTwoBlocksOnly : Prop :=
  ∀ (key : Key) (iv : Block) (front : List Block) (c c' : Block),
    (plainChain key iv front).length = front.length ∧
    (∀ (d : Block) (back : List Block), ∃ (x x' y y' : Block) (q : List Block),
      plainChain key iv (front ++ c :: d :: back) = plainChain key iv front ++ x :: y :: q ∧
      plainChain key iv (front ++ c' :: d :: back) = plainChain key iv front ++ x' :: y' :: q ∧
      q.length = back.length ∧ (c ≠ c' → x ≠ x' ∧ y ≠ y')) ∧
    (∃ x x' : Block,
      plainChain key iv (front ++ [c]) = plainChain key iv front ++ [x] ∧
      plainChain key iv (front ++ [c']) = plainChain key iv front ++ [x'] ∧ (c ≠ c' → x ≠ x'))

/-! ### What the engine computes -/

/-- An encryption on the engine computes `encrypt`: `ENC_START` opens it with nothing pushed and nothing emitted; an
admitted `PUSHD` adds its lanes to the plaintext; an admitted `POP` and the register reads change neither plaintext nor
ciphertext; an admitted `FINAL` changes neither and latches its job; a `BLOCK` step emits the next ciphertext block; and
the `FINAL` step emits the last, after which the blocks emitted are `encrypt` of the bytes pushed and the state is the
final state of R221 (R213, R214, R215, R221). -/
def Obligations.EncryptionComputesEncrypt : Prop :=
  (∀ s t : State, exec .encStart s = .next t → t.mode = .enc → EncStream s.key s.iv [] [] t) ∧
  (∀ (key : Key) (iv : Block) (p : List Byte) (out : List Block) (s : State), s.Inv → EncStream key iv p out s →
    (∀ n v t, exec (.pushd n v) s = .next t → t.mode ≠ .fault → EncStream key iv (p ++ lanes n v) out t) ∧
    (∀ n t, exec (.pop n) s = .next t → t.mode ≠ .fault → EncStream key iv p out t) ∧
    (∀ i ∈ [Instr.rdid, .rdparam, .rdstatus, .rdlen], ∀ t, exec i s = .next t →
      EncStream key iv p out t ∧ t.job = s.job) ∧
    (∀ t, exec .final s = .next t → t.mode ≠ .fault → EncStream key iv p out t ∧ t.job = .final) ∧
    (s.job = .block →
      EncStream key iv p (out ++ [(engineStep s).obuf]) (engineStep s) ∧
      (engineStep s).unread = (engineStep s).obuf.toList) ∧
    (s.job = .final →
      out ++ [(engineStep s).obuf] = encrypt key iv [p] ∧
      (engineStep s).unread = (engineStep s).obuf.toList ∧ (engineStep s).chain = (engineStep s).obuf ∧
      (engineStep s).mode = .idle ∧ (engineStep s).done = true ∧ (engineStep s).job = .none ∧
      (engineStep s).bufcnt = 0 ∧
      ((engineStep s).pfb = true ↔ p.length % 64 = 0 ∧ 0 < p.length) ∧
      ((engineStep s).any = true ↔ 0 < p.length)))

/-- A decryption on the engine computes `decrypt`: `DEC_START` opens it; an admitted `PUSHD` adds its lanes to the
ciphertext; an admitted `POP` and the register reads change nothing of it; an admitted `FINAL` changes nothing of it and
latches its job; the first `BLOCK` step emits nothing and every later one the plaintext block before; and after the
`FINAL` step the blocks emitted and the last piece are `decrypt` of the blocks pushed and the state is the final state of
R251 (R214, R241, R243, R251). -/
def Obligations.DecryptionComputesDecrypt : Prop :=
  (∀ s t : State, exec .decStart s = .next t → t.mode = .dec → DecStream s.key s.iv [] [] t) ∧
  (∀ (key : Key) (iv : Block) (c : List Byte) (out : List Block) (s : State), s.Inv → DecStream key iv c out s →
    (∀ n v t, exec (.pushd n v) s = .next t → t.mode ≠ .fault → DecStream key iv (c ++ lanes n v) out t) ∧
    (∀ n t, exec (.pop n) s = .next t → t.mode ≠ .fault → DecStream key iv c out t) ∧
    (∀ i ∈ [Instr.rdid, .rdparam, .rdstatus, .rdlen], ∀ t, exec i s = .next t →
      DecStream key iv c out t ∧ t.job = s.job) ∧
    (∀ t, exec .final s = .next t → t.mode ≠ .fault → DecStream key iv c out t ∧ t.job = .final) ∧
    (s.job = .block → s.heldv = false →
      DecStream key iv c out (engineStep s) ∧ (engineStep s).unread = []) ∧
    (s.job = .block → s.heldv = true →
      DecStream key iv c (out ++ [s.held]) (engineStep s) ∧ (engineStep s).unread = s.held.toList) ∧
    (s.job = .final →
      ∃ blocks : List Block, flatBlocks blocks = c ∧
        flatBlocks out ++ (engineStep s).unread = (decrypt key iv blocks).flatten ∧
        (engineStep s).chain = blocks.getLast?.getD iv ∧ (engineStep s).mode = .idle ∧ (engineStep s).done = true ∧
        (engineStep s).job = .none ∧ (engineStep s).heldv = false ∧ (engineStep s).bufcnt = 0 ∧
        (engineStep s).pfb = false ∧ (engineStep s).any = false))
end

