-- ==== Sys2Proof/Laws/Decode.lean ====
section
/-! SUPPORT. The fields of a descriptor put together from its fields, and the value of a well-formed push. -/

namespace Sys2Proof

/-- Every bit of a descriptor, by the field it lies in (R91). -/
theorem descriptor_getLsbD (d : BitVec 1) (s : BitVec 2) (o : BitVec 6) (v : Word32) (i : Nat) :
    (descriptor d s o v).getLsbD i =
      if i < 32 then v.getLsbD i else if i < 38 then o.getLsbD (i - 32) else
        if i < 40 then s.getLsbD (i - 38) else d.getLsbD (i - 40) := by
  have h : descriptor d s o v = (d ++ s ++ o ++ v : BitVec (1 + 2 + 6 + 32)) := rfl
  rw [h]
  rw [BitVec.getLsbD_append, BitVec.getLsbD_append, BitVec.getLsbD_append]
  split
  · rfl
  · split
    · rw [if_pos (by omega)]
    · split
      · rw [if_neg (by omega), if_pos (by omega), show i - 32 - 6 = i - 38 by omega]
      · rw [if_neg (by omega), if_neg (by omega), show i - 32 - 6 - 2 = i - 40 by omega]

theorem descriptor_isWrite (d : BitVec 1) (s : BitVec 2) (o : BitVec 6) (v : Word32) :
    Descriptor.isWrite (descriptor d s o v) = (d == 1#1) := by
  have h : (descriptor d s o v).extractLsb' 40 1 = d := by
    apply BitVec.eq_of_getLsbD_eq
    intro i hi
    have h1 : ¬ 40 + i < 32 := by omega
    have h2 : ¬ 40 + i < 38 := by omega
    simp [descriptor_getLsbD, hi, h1, h2]
  rw [Descriptor.isWrite, h]

theorem descriptor_sz (d : BitVec 1) (s : BitVec 2) (o : BitVec 6) (v : Word32) :
    Descriptor.sz (descriptor d s o v) = s := by
  apply BitVec.eq_of_getLsbD_eq
  intro i hi
  have h1 : ¬ 38 + i < 32 := by omega
  have h2 : 38 + i < 40 := by omega
  simp [Descriptor.sz, descriptor_getLsbD, hi, h1, h2]

theorem descriptor_off (d : BitVec 1) (s : BitVec 2) (o : BitVec 6) (v : Word32) :
    Descriptor.off (descriptor d s o v) = o := by
  apply BitVec.eq_of_getLsbD_eq
  intro i hi
  have h1 : 32 + i < 38 := by omega
  simp [Descriptor.off, descriptor_getLsbD, hi, h1]

theorem descriptor_data (d : BitVec 1) (s : BitVec 2) (o : BitVec 6) (v : Word32) :
    Descriptor.data (descriptor d s o v) = v := by
  apply BitVec.eq_of_getLsbD_eq
  intro i hi
  simp [Descriptor.data, descriptor_getLsbD, hi]

/-- A value that fits its size is written as it is (R62). -/
theorem writeValue_of_fits {n : Size} {v : Word32} (h : n.fits v = true) : writeValue n v = v := by
  cases n
  · have hv : v.toNat < 2 ^ 8 := of_decide_eq_true h
    apply BitVec.eq_of_toNat_eq
    have : (v &&& 0x000000FF#32).toNat = v.toNat &&& (2 ^ 8 - 1) := BitVec.toNat_and ..
    exact this.trans (by rw [Nat.and_two_pow_sub_one_eq_mod, Nat.mod_eq_of_lt hv])
  · have hv : v.toNat < 2 ^ 16 := of_decide_eq_true h
    apply BitVec.eq_of_toNat_eq
    have : (v &&& 0x0000FFFF#32).toNat = v.toNat &&& (2 ^ 16 - 1) := BitVec.toNat_and ..
    exact this.trans (by rw [Nat.and_two_pow_sub_one_eq_mod, Nat.mod_eq_of_lt hv])
  · rfl

end Sys2Proof
end

