-- ==== Sys2Proof/Laws/State.lean ====
section
/-! SUPPORT. The fields of the state after each named update: one lemma per field and update, true by `rfl` (where the unifier would
compare whole byte arrays, by unfolding the update alone). -/

namespace Sys2Proof.Machine

@[simp] theorem raiseFault_key (c : FaultCode) (s : State) : (raiseFault c s).key = s.key := rfl
@[simp] theorem raiseFault_keylen (c : FaultCode) (s : State) : (raiseFault c s).keylen = s.keylen := rfl
@[simp] theorem raiseFault_iv (c : FaultCode) (s : State) : (raiseFault c s).iv = s.iv := rfl
@[simp] theorem raiseFault_ivlen (c : FaultCode) (s : State) : (raiseFault c s).ivlen = s.ivlen := rfl
@[simp] theorem raiseFault_buf (c : FaultCode) (s : State) : (raiseFault c s).buf = s.buf := rfl
@[simp] theorem raiseFault_bufcnt (c : FaultCode) (s : State) : (raiseFault c s).bufcnt = 0 := rfl
@[simp] theorem raiseFault_obuf (c : FaultCode) (s : State) : (raiseFault c s).obuf = s.obuf := rfl
@[simp] theorem raiseFault_olen (c : FaultCode) (s : State) : (raiseFault c s).olen = 0 := rfl
@[simp] theorem raiseFault_ord (c : FaultCode) (s : State) : (raiseFault c s).ord = 0 := rfl
@[simp] theorem raiseFault_chain (c : FaultCode) (s : State) : (raiseFault c s).chain = s.chain := rfl
@[simp] theorem raiseFault_held (c : FaultCode) (s : State) : (raiseFault c s).held = s.held := rfl
@[simp] theorem raiseFault_heldv (c : FaultCode) (s : State) : (raiseFault c s).heldv = false := rfl
@[simp] theorem raiseFault_pfb (c : FaultCode) (s : State) : (raiseFault c s).pfb = s.pfb := rfl
@[simp] theorem raiseFault_any (c : FaultCode) (s : State) : (raiseFault c s).any = s.any := rfl
@[simp] theorem raiseFault_done (c : FaultCode) (s : State) : (raiseFault c s).done = false := rfl
@[simp] theorem raiseFault_mode (c : FaultCode) (s : State) : (raiseFault c s).mode = .fault := rfl
@[simp] theorem raiseFault_job (c : FaultCode) (s : State) : (raiseFault c s).job = .none := rfl
@[simp] theorem raiseFault_err (c : FaultCode) (s : State) : (raiseFault c s).err = if s.mode = .fault then s.err else some c := rfl
@[simp] theorem raiseFault_inputs (c : FaultCode) (s : State) : (raiseFault c s).inputs = s.inputs := rfl
@[simp] theorem raiseFault_resp (c : FaultCode) (s : State) : (raiseFault c s).resp = s.resp := rfl

@[simp] theorem softReset_key (s : State) : (softReset s).key = State.reset.key := rfl
@[simp] theorem softReset_keylen (s : State) : (softReset s).keylen = State.reset.keylen := rfl
@[simp] theorem softReset_iv (s : State) : (softReset s).iv = State.reset.iv := rfl
@[simp] theorem softReset_ivlen (s : State) : (softReset s).ivlen = State.reset.ivlen := rfl
@[simp] theorem softReset_buf (s : State) : (softReset s).buf = State.reset.buf := rfl
@[simp] theorem softReset_bufcnt (s : State) : (softReset s).bufcnt = State.reset.bufcnt := rfl
@[simp] theorem softReset_obuf (s : State) : (softReset s).obuf = State.reset.obuf := rfl
@[simp] theorem softReset_olen (s : State) : (softReset s).olen = State.reset.olen := rfl
@[simp] theorem softReset_ord (s : State) : (softReset s).ord = State.reset.ord := rfl
@[simp] theorem softReset_chain (s : State) : (softReset s).chain = State.reset.chain := rfl
@[simp] theorem softReset_held (s : State) : (softReset s).held = State.reset.held := rfl
@[simp] theorem softReset_heldv (s : State) : (softReset s).heldv = State.reset.heldv := rfl
@[simp] theorem softReset_pfb (s : State) : (softReset s).pfb = State.reset.pfb := rfl
@[simp] theorem softReset_any (s : State) : (softReset s).any = State.reset.any := rfl
@[simp] theorem softReset_done (s : State) : (softReset s).done = State.reset.done := rfl
@[simp] theorem softReset_mode (s : State) : (softReset s).mode = State.reset.mode := rfl
@[simp] theorem softReset_job (s : State) : (softReset s).job = State.reset.job := rfl
@[simp] theorem softReset_err (s : State) : (softReset s).err = State.reset.err := rfl
@[simp] theorem softReset_inputs (s : State) : (softReset s).inputs = s.inputs := rfl
@[simp] theorem softReset_resp (s : State) : (softReset s).resp = State.reset.resp := rfl

@[simp] theorem takeEvent_key (s : State) : (takeEvent s).key = s.key := rfl
@[simp] theorem takeEvent_keylen (s : State) : (takeEvent s).keylen = s.keylen := rfl
@[simp] theorem takeEvent_iv (s : State) : (takeEvent s).iv = s.iv := rfl
@[simp] theorem takeEvent_ivlen (s : State) : (takeEvent s).ivlen = s.ivlen := rfl
@[simp] theorem takeEvent_buf (s : State) : (takeEvent s).buf = s.buf := rfl
@[simp] theorem takeEvent_bufcnt (s : State) : (takeEvent s).bufcnt = s.bufcnt := rfl
@[simp] theorem takeEvent_obuf (s : State) : (takeEvent s).obuf = s.obuf := rfl
@[simp] theorem takeEvent_olen (s : State) : (takeEvent s).olen = s.olen := rfl
@[simp] theorem takeEvent_ord (s : State) : (takeEvent s).ord = s.ord := rfl
@[simp] theorem takeEvent_chain (s : State) : (takeEvent s).chain = s.chain := rfl
@[simp] theorem takeEvent_held (s : State) : (takeEvent s).held = s.held := rfl
@[simp] theorem takeEvent_heldv (s : State) : (takeEvent s).heldv = s.heldv := rfl
@[simp] theorem takeEvent_pfb (s : State) : (takeEvent s).pfb = s.pfb := rfl
@[simp] theorem takeEvent_any (s : State) : (takeEvent s).any = s.any := rfl
@[simp] theorem takeEvent_done (s : State) : (takeEvent s).done = s.done := rfl
@[simp] theorem takeEvent_mode (s : State) : (takeEvent s).mode = s.mode := rfl
@[simp] theorem takeEvent_job (s : State) : (takeEvent s).job = s.job := rfl
@[simp] theorem takeEvent_err (s : State) : (takeEvent s).err = s.err := rfl
@[simp] theorem takeEvent_inputs (s : State) : (takeEvent s).inputs = s.inputs.tail := rfl
@[simp] theorem takeEvent_resp (s : State) : (takeEvent s).resp = s.resp := rfl

@[simp] theorem offer_key (t : Descriptor) (s : State) : (offer t s).key = s.key := rfl
@[simp] theorem offer_keylen (t : Descriptor) (s : State) : (offer t s).keylen = s.keylen := rfl
@[simp] theorem offer_iv (t : Descriptor) (s : State) : (offer t s).iv = s.iv := rfl
@[simp] theorem offer_ivlen (t : Descriptor) (s : State) : (offer t s).ivlen = s.ivlen := rfl
@[simp] theorem offer_buf (t : Descriptor) (s : State) : (offer t s).buf = s.buf := rfl
@[simp] theorem offer_bufcnt (t : Descriptor) (s : State) : (offer t s).bufcnt = s.bufcnt := rfl
@[simp] theorem offer_obuf (t : Descriptor) (s : State) : (offer t s).obuf = s.obuf := rfl
@[simp] theorem offer_olen (t : Descriptor) (s : State) : (offer t s).olen = s.olen := rfl
@[simp] theorem offer_ord (t : Descriptor) (s : State) : (offer t s).ord = s.ord := rfl
@[simp] theorem offer_chain (t : Descriptor) (s : State) : (offer t s).chain = s.chain := rfl
@[simp] theorem offer_held (t : Descriptor) (s : State) : (offer t s).held = s.held := rfl
@[simp] theorem offer_heldv (t : Descriptor) (s : State) : (offer t s).heldv = s.heldv := rfl
@[simp] theorem offer_pfb (t : Descriptor) (s : State) : (offer t s).pfb = s.pfb := rfl
@[simp] theorem offer_any (t : Descriptor) (s : State) : (offer t s).any = s.any := rfl
@[simp] theorem offer_done (t : Descriptor) (s : State) : (offer t s).done = s.done := rfl
@[simp] theorem offer_mode (t : Descriptor) (s : State) : (offer t s).mode = s.mode := rfl
@[simp] theorem offer_job (t : Descriptor) (s : State) : (offer t s).job = s.job := rfl
@[simp] theorem offer_err (t : Descriptor) (s : State) : (offer t s).err = s.err := rfl
@[simp] theorem offer_inputs (t : Descriptor) (s : State) : (offer t s).inputs = .transaction t :: s.inputs := rfl
@[simp] theorem offer_resp (t : Descriptor) (s : State) : (offer t s).resp = s.resp := rfl

@[simp] theorem emitBlock_key (b : Block) (s : State) : (emitBlock b s).key = s.key := rfl
@[simp] theorem emitBlock_keylen (b : Block) (s : State) : (emitBlock b s).keylen = s.keylen := rfl
@[simp] theorem emitBlock_iv (b : Block) (s : State) : (emitBlock b s).iv = s.iv := rfl
@[simp] theorem emitBlock_ivlen (b : Block) (s : State) : (emitBlock b s).ivlen = s.ivlen := rfl
@[simp] theorem emitBlock_buf (b : Block) (s : State) : (emitBlock b s).buf = s.buf := rfl
@[simp] theorem emitBlock_bufcnt (b : Block) (s : State) : (emitBlock b s).bufcnt = s.bufcnt := rfl
@[simp] theorem emitBlock_obuf (b : Block) (s : State) : (emitBlock b s).obuf = b := rfl
@[simp] theorem emitBlock_olen (b : Block) (s : State) : (emitBlock b s).olen = 64 := rfl
@[simp] theorem emitBlock_ord (b : Block) (s : State) : (emitBlock b s).ord = 0 := rfl
@[simp] theorem emitBlock_chain (b : Block) (s : State) : (emitBlock b s).chain = s.chain := rfl
@[simp] theorem emitBlock_held (b : Block) (s : State) : (emitBlock b s).held = s.held := rfl
@[simp] theorem emitBlock_heldv (b : Block) (s : State) : (emitBlock b s).heldv = s.heldv := rfl
@[simp] theorem emitBlock_pfb (b : Block) (s : State) : (emitBlock b s).pfb = s.pfb := rfl
@[simp] theorem emitBlock_any (b : Block) (s : State) : (emitBlock b s).any = s.any := rfl
@[simp] theorem emitBlock_done (b : Block) (s : State) : (emitBlock b s).done = s.done := rfl
@[simp] theorem emitBlock_mode (b : Block) (s : State) : (emitBlock b s).mode = s.mode := rfl
@[simp] theorem emitBlock_job (b : Block) (s : State) : (emitBlock b s).job = s.job := rfl
@[simp] theorem emitBlock_err (b : Block) (s : State) : (emitBlock b s).err = s.err := rfl
@[simp] theorem emitBlock_inputs (b : Block) (s : State) : (emitBlock b s).inputs = s.inputs := rfl
@[simp] theorem emitBlock_resp (b : Block) (s : State) : (emitBlock b s).resp = s.resp := rfl

@[simp] theorem emitBytes_key (f : List Byte) (s : State) : (emitBytes f s).key = s.key := by simp only [emitBytes]
@[simp] theorem emitBytes_keylen (f : List Byte) (s : State) : (emitBytes f s).keylen = s.keylen := by simp only [emitBytes]
@[simp] theorem emitBytes_iv (f : List Byte) (s : State) : (emitBytes f s).iv = s.iv := by simp only [emitBytes]
@[simp] theorem emitBytes_ivlen (f : List Byte) (s : State) : (emitBytes f s).ivlen = s.ivlen := by simp only [emitBytes]
@[simp] theorem emitBytes_buf (f : List Byte) (s : State) : (emitBytes f s).buf = s.buf := by simp only [emitBytes]
@[simp] theorem emitBytes_bufcnt (f : List Byte) (s : State) : (emitBytes f s).bufcnt = s.bufcnt := by simp only [emitBytes]
@[simp] theorem emitBytes_obuf (f : List Byte) (s : State) : (emitBytes f s).obuf = writePrefix s.obuf f := by simp only [emitBytes]
@[simp] theorem emitBytes_olen (f : List Byte) (s : State) : (emitBytes f s).olen = BitVec.ofNat 7 f.length := by simp only [emitBytes]
@[simp] theorem emitBytes_ord (f : List Byte) (s : State) : (emitBytes f s).ord = 0 := by simp only [emitBytes]
@[simp] theorem emitBytes_chain (f : List Byte) (s : State) : (emitBytes f s).chain = s.chain := by simp only [emitBytes]
@[simp] theorem emitBytes_held (f : List Byte) (s : State) : (emitBytes f s).held = s.held := by simp only [emitBytes]
@[simp] theorem emitBytes_heldv (f : List Byte) (s : State) : (emitBytes f s).heldv = s.heldv := by simp only [emitBytes]
@[simp] theorem emitBytes_pfb (f : List Byte) (s : State) : (emitBytes f s).pfb = s.pfb := by simp only [emitBytes]
@[simp] theorem emitBytes_any (f : List Byte) (s : State) : (emitBytes f s).any = s.any := by simp only [emitBytes]
@[simp] theorem emitBytes_done (f : List Byte) (s : State) : (emitBytes f s).done = s.done := by simp only [emitBytes]
@[simp] theorem emitBytes_mode (f : List Byte) (s : State) : (emitBytes f s).mode = s.mode := by simp only [emitBytes]
@[simp] theorem emitBytes_job (f : List Byte) (s : State) : (emitBytes f s).job = s.job := by simp only [emitBytes]
@[simp] theorem emitBytes_err (f : List Byte) (s : State) : (emitBytes f s).err = s.err := by simp only [emitBytes]
@[simp] theorem emitBytes_inputs (f : List Byte) (s : State) : (emitBytes f s).inputs = s.inputs := by simp only [emitBytes]
@[simp] theorem emitBytes_resp (f : List Byte) (s : State) : (emitBytes f s).resp = s.resp := by simp only [emitBytes]

@[simp] theorem shiftBuf_key (s : State) : (shiftBuf s).key = s.key := by simp only [shiftBuf]
@[simp] theorem shiftBuf_keylen (s : State) : (shiftBuf s).keylen = s.keylen := by simp only [shiftBuf]
@[simp] theorem shiftBuf_iv (s : State) : (shiftBuf s).iv = s.iv := by simp only [shiftBuf]
@[simp] theorem shiftBuf_ivlen (s : State) : (shiftBuf s).ivlen = s.ivlen := by simp only [shiftBuf]
@[simp] theorem shiftBuf_buf (s : State) : (shiftBuf s).buf = writePrefix s.buf ((s.buf.toList.drop 64).take (s.bufcnt.toNat - 64)) := by simp only [shiftBuf]
@[simp] theorem shiftBuf_bufcnt (s : State) : (shiftBuf s).bufcnt = BitVec.ofNat 8 (s.bufcnt.toNat - 64) := by simp only [shiftBuf]
@[simp] theorem shiftBuf_obuf (s : State) : (shiftBuf s).obuf = s.obuf := by simp only [shiftBuf]
@[simp] theorem shiftBuf_olen (s : State) : (shiftBuf s).olen = s.olen := by simp only [shiftBuf]
@[simp] theorem shiftBuf_ord (s : State) : (shiftBuf s).ord = s.ord := by simp only [shiftBuf]
@[simp] theorem shiftBuf_chain (s : State) : (shiftBuf s).chain = s.chain := by simp only [shiftBuf]
@[simp] theorem shiftBuf_held (s : State) : (shiftBuf s).held = s.held := by simp only [shiftBuf]
@[simp] theorem shiftBuf_heldv (s : State) : (shiftBuf s).heldv = s.heldv := by simp only [shiftBuf]
@[simp] theorem shiftBuf_pfb (s : State) : (shiftBuf s).pfb = s.pfb := by simp only [shiftBuf]
@[simp] theorem shiftBuf_any (s : State) : (shiftBuf s).any = s.any := by simp only [shiftBuf]
@[simp] theorem shiftBuf_done (s : State) : (shiftBuf s).done = s.done := by simp only [shiftBuf]
@[simp] theorem shiftBuf_mode (s : State) : (shiftBuf s).mode = s.mode := by simp only [shiftBuf]
@[simp] theorem shiftBuf_job (s : State) : (shiftBuf s).job = s.job := by simp only [shiftBuf]
@[simp] theorem shiftBuf_err (s : State) : (shiftBuf s).err = s.err := by simp only [shiftBuf]
@[simp] theorem shiftBuf_inputs (s : State) : (shiftBuf s).inputs = s.inputs := by simp only [shiftBuf]
@[simp] theorem shiftBuf_resp (s : State) : (shiftBuf s).resp = s.resp := by simp only [shiftBuf]

@[simp] theorem pushKeyByte_key (s : State) (b : Byte) : (pushKeyByte s b).key = storeAt s.key s.keylen.toNat b := rfl
@[simp] theorem pushKeyByte_keylen (s : State) (b : Byte) : (pushKeyByte s b).keylen = satInc s.keylen := rfl
@[simp] theorem pushKeyByte_iv (s : State) (b : Byte) : (pushKeyByte s b).iv = s.iv := rfl
@[simp] theorem pushKeyByte_ivlen (s : State) (b : Byte) : (pushKeyByte s b).ivlen = s.ivlen := rfl
@[simp] theorem pushKeyByte_buf (s : State) (b : Byte) : (pushKeyByte s b).buf = s.buf := rfl
@[simp] theorem pushKeyByte_bufcnt (s : State) (b : Byte) : (pushKeyByte s b).bufcnt = s.bufcnt := rfl
@[simp] theorem pushKeyByte_obuf (s : State) (b : Byte) : (pushKeyByte s b).obuf = s.obuf := rfl
@[simp] theorem pushKeyByte_olen (s : State) (b : Byte) : (pushKeyByte s b).olen = s.olen := rfl
@[simp] theorem pushKeyByte_ord (s : State) (b : Byte) : (pushKeyByte s b).ord = s.ord := rfl
@[simp] theorem pushKeyByte_chain (s : State) (b : Byte) : (pushKeyByte s b).chain = s.chain := rfl
@[simp] theorem pushKeyByte_held (s : State) (b : Byte) : (pushKeyByte s b).held = s.held := rfl
@[simp] theorem pushKeyByte_heldv (s : State) (b : Byte) : (pushKeyByte s b).heldv = s.heldv := rfl
@[simp] theorem pushKeyByte_pfb (s : State) (b : Byte) : (pushKeyByte s b).pfb = s.pfb := rfl
@[simp] theorem pushKeyByte_any (s : State) (b : Byte) : (pushKeyByte s b).any = s.any := rfl
@[simp] theorem pushKeyByte_done (s : State) (b : Byte) : (pushKeyByte s b).done = s.done := rfl
@[simp] theorem pushKeyByte_mode (s : State) (b : Byte) : (pushKeyByte s b).mode = s.mode := rfl
@[simp] theorem pushKeyByte_job (s : State) (b : Byte) : (pushKeyByte s b).job = s.job := rfl
@[simp] theorem pushKeyByte_err (s : State) (b : Byte) : (pushKeyByte s b).err = s.err := rfl
@[simp] theorem pushKeyByte_inputs (s : State) (b : Byte) : (pushKeyByte s b).inputs = s.inputs := rfl
@[simp] theorem pushKeyByte_resp (s : State) (b : Byte) : (pushKeyByte s b).resp = s.resp := rfl

@[simp] theorem pushIvByte_key (s : State) (b : Byte) : (pushIvByte s b).key = s.key := rfl
@[simp] theorem pushIvByte_keylen (s : State) (b : Byte) : (pushIvByte s b).keylen = s.keylen := rfl
@[simp] theorem pushIvByte_iv (s : State) (b : Byte) : (pushIvByte s b).iv = storeAt s.iv s.ivlen.toNat b := rfl
@[simp] theorem pushIvByte_ivlen (s : State) (b : Byte) : (pushIvByte s b).ivlen = satInc s.ivlen := rfl
@[simp] theorem pushIvByte_buf (s : State) (b : Byte) : (pushIvByte s b).buf = s.buf := rfl
@[simp] theorem pushIvByte_bufcnt (s : State) (b : Byte) : (pushIvByte s b).bufcnt = s.bufcnt := rfl
@[simp] theorem pushIvByte_obuf (s : State) (b : Byte) : (pushIvByte s b).obuf = s.obuf := rfl
@[simp] theorem pushIvByte_olen (s : State) (b : Byte) : (pushIvByte s b).olen = s.olen := rfl
@[simp] theorem pushIvByte_ord (s : State) (b : Byte) : (pushIvByte s b).ord = s.ord := rfl
@[simp] theorem pushIvByte_chain (s : State) (b : Byte) : (pushIvByte s b).chain = s.chain := rfl
@[simp] theorem pushIvByte_held (s : State) (b : Byte) : (pushIvByte s b).held = s.held := rfl
@[simp] theorem pushIvByte_heldv (s : State) (b : Byte) : (pushIvByte s b).heldv = s.heldv := rfl
@[simp] theorem pushIvByte_pfb (s : State) (b : Byte) : (pushIvByte s b).pfb = s.pfb := rfl
@[simp] theorem pushIvByte_any (s : State) (b : Byte) : (pushIvByte s b).any = s.any := rfl
@[simp] theorem pushIvByte_done (s : State) (b : Byte) : (pushIvByte s b).done = s.done := rfl
@[simp] theorem pushIvByte_mode (s : State) (b : Byte) : (pushIvByte s b).mode = s.mode := rfl
@[simp] theorem pushIvByte_job (s : State) (b : Byte) : (pushIvByte s b).job = s.job := rfl
@[simp] theorem pushIvByte_err (s : State) (b : Byte) : (pushIvByte s b).err = s.err := rfl
@[simp] theorem pushIvByte_inputs (s : State) (b : Byte) : (pushIvByte s b).inputs = s.inputs := rfl
@[simp] theorem pushIvByte_resp (s : State) (b : Byte) : (pushIvByte s b).resp = s.resp := rfl

@[simp] theorem pushBufByte_key (s : State) (b : Byte) : (pushBufByte s b).key = s.key := rfl
@[simp] theorem pushBufByte_keylen (s : State) (b : Byte) : (pushBufByte s b).keylen = s.keylen := rfl
@[simp] theorem pushBufByte_iv (s : State) (b : Byte) : (pushBufByte s b).iv = s.iv := rfl
@[simp] theorem pushBufByte_ivlen (s : State) (b : Byte) : (pushBufByte s b).ivlen = s.ivlen := rfl
@[simp] theorem pushBufByte_buf (s : State) (b : Byte) : (pushBufByte s b).buf = storeAt s.buf s.bufcnt.toNat b := rfl
@[simp] theorem pushBufByte_bufcnt (s : State) (b : Byte) : (pushBufByte s b).bufcnt = satInc s.bufcnt := rfl
@[simp] theorem pushBufByte_obuf (s : State) (b : Byte) : (pushBufByte s b).obuf = s.obuf := rfl
@[simp] theorem pushBufByte_olen (s : State) (b : Byte) : (pushBufByte s b).olen = s.olen := rfl
@[simp] theorem pushBufByte_ord (s : State) (b : Byte) : (pushBufByte s b).ord = s.ord := rfl
@[simp] theorem pushBufByte_chain (s : State) (b : Byte) : (pushBufByte s b).chain = s.chain := rfl
@[simp] theorem pushBufByte_held (s : State) (b : Byte) : (pushBufByte s b).held = s.held := rfl
@[simp] theorem pushBufByte_heldv (s : State) (b : Byte) : (pushBufByte s b).heldv = s.heldv := rfl
@[simp] theorem pushBufByte_pfb (s : State) (b : Byte) : (pushBufByte s b).pfb = s.pfb := rfl
@[simp] theorem pushBufByte_any (s : State) (b : Byte) : (pushBufByte s b).any = s.any := rfl
@[simp] theorem pushBufByte_done (s : State) (b : Byte) : (pushBufByte s b).done = s.done := rfl
@[simp] theorem pushBufByte_mode (s : State) (b : Byte) : (pushBufByte s b).mode = s.mode := rfl
@[simp] theorem pushBufByte_job (s : State) (b : Byte) : (pushBufByte s b).job = s.job := rfl
@[simp] theorem pushBufByte_err (s : State) (b : Byte) : (pushBufByte s b).err = s.err := rfl
@[simp] theorem pushBufByte_inputs (s : State) (b : Byte) : (pushBufByte s b).inputs = s.inputs := rfl
@[simp] theorem pushBufByte_resp (s : State) (b : Byte) : (pushBufByte s b).resp = s.resp := rfl

@[simp] theorem abandonStream_key (s : State) : (abandonStream s).key = s.key := rfl
@[simp] theorem abandonStream_keylen (s : State) : (abandonStream s).keylen = s.keylen := rfl
@[simp] theorem abandonStream_iv (s : State) : (abandonStream s).iv = s.iv := rfl
@[simp] theorem abandonStream_ivlen (s : State) : (abandonStream s).ivlen = s.ivlen := rfl
@[simp] theorem abandonStream_buf (s : State) : (abandonStream s).buf = s.buf := rfl
@[simp] theorem abandonStream_bufcnt (s : State) : (abandonStream s).bufcnt = 0 := rfl
@[simp] theorem abandonStream_obuf (s : State) : (abandonStream s).obuf = s.obuf := rfl
@[simp] theorem abandonStream_olen (s : State) : (abandonStream s).olen = 0 := rfl
@[simp] theorem abandonStream_ord (s : State) : (abandonStream s).ord = 0 := rfl
@[simp] theorem abandonStream_chain (s : State) : (abandonStream s).chain = s.chain := rfl
@[simp] theorem abandonStream_held (s : State) : (abandonStream s).held = s.held := rfl
@[simp] theorem abandonStream_heldv (s : State) : (abandonStream s).heldv = false := rfl
@[simp] theorem abandonStream_pfb (s : State) : (abandonStream s).pfb = false := rfl
@[simp] theorem abandonStream_any (s : State) : (abandonStream s).any = false := rfl
@[simp] theorem abandonStream_done (s : State) : (abandonStream s).done = false := rfl
@[simp] theorem abandonStream_mode (s : State) : (abandonStream s).mode = .idle := rfl
@[simp] theorem abandonStream_job (s : State) : (abandonStream s).job = .none := rfl
@[simp] theorem abandonStream_err (s : State) : (abandonStream s).err = s.err := rfl
@[simp] theorem abandonStream_inputs (s : State) : (abandonStream s).inputs = s.inputs := rfl
@[simp] theorem abandonStream_resp (s : State) : (abandonStream s).resp = s.resp := rfl

@[simp] theorem startState_key (m : Mode) (s : State) : (startState m s).key = s.key := rfl
@[simp] theorem startState_keylen (m : Mode) (s : State) : (startState m s).keylen = s.keylen := rfl
@[simp] theorem startState_iv (m : Mode) (s : State) : (startState m s).iv = s.iv := rfl
@[simp] theorem startState_ivlen (m : Mode) (s : State) : (startState m s).ivlen = s.ivlen := rfl
@[simp] theorem startState_buf (m : Mode) (s : State) : (startState m s).buf = s.buf := rfl
@[simp] theorem startState_bufcnt (m : Mode) (s : State) : (startState m s).bufcnt = 0 := rfl
@[simp] theorem startState_obuf (m : Mode) (s : State) : (startState m s).obuf = s.obuf := rfl
@[simp] theorem startState_olen (m : Mode) (s : State) : (startState m s).olen = s.olen := rfl
@[simp] theorem startState_ord (m : Mode) (s : State) : (startState m s).ord = s.ord := rfl
@[simp] theorem startState_chain (m : Mode) (s : State) : (startState m s).chain = s.iv := rfl
@[simp] theorem startState_held (m : Mode) (s : State) : (startState m s).held = s.held := rfl
@[simp] theorem startState_heldv (m : Mode) (s : State) : (startState m s).heldv = false := rfl
@[simp] theorem startState_pfb (m : Mode) (s : State) : (startState m s).pfb = false := rfl
@[simp] theorem startState_any (m : Mode) (s : State) : (startState m s).any = false := rfl
@[simp] theorem startState_done (m : Mode) (s : State) : (startState m s).done = false := rfl
@[simp] theorem startState_mode (m : Mode) (s : State) : (startState m s).mode = m := rfl
@[simp] theorem startState_job (m : Mode) (s : State) : (startState m s).job = s.job := rfl
@[simp] theorem startState_err (m : Mode) (s : State) : (startState m s).err = s.err := rfl
@[simp] theorem startState_inputs (m : Mode) (s : State) : (startState m s).inputs = s.inputs := rfl
@[simp] theorem startState_resp (m : Mode) (s : State) : (startState m s).resp = s.resp := rfl

@[simp] theorem chainStep_key (b : Block) (s : State) : (chainStep b s).key = s.key := rfl
@[simp] theorem chainStep_keylen (b : Block) (s : State) : (chainStep b s).keylen = s.keylen := rfl
@[simp] theorem chainStep_iv (b : Block) (s : State) : (chainStep b s).iv = s.iv := rfl
@[simp] theorem chainStep_ivlen (b : Block) (s : State) : (chainStep b s).ivlen = s.ivlen := rfl
@[simp] theorem chainStep_buf (b : Block) (s : State) : (chainStep b s).buf = s.buf := rfl
@[simp] theorem chainStep_bufcnt (b : Block) (s : State) : (chainStep b s).bufcnt = s.bufcnt := rfl
@[simp] theorem chainStep_obuf (b : Block) (s : State) : (chainStep b s).obuf = cipherBlock s.key s.chain b := rfl
@[simp] theorem chainStep_olen (b : Block) (s : State) : (chainStep b s).olen = 64 := rfl
@[simp] theorem chainStep_ord (b : Block) (s : State) : (chainStep b s).ord = 0 := rfl
@[simp] theorem chainStep_chain (b : Block) (s : State) : (chainStep b s).chain = cipherBlock s.key s.chain b := rfl
@[simp] theorem chainStep_held (b : Block) (s : State) : (chainStep b s).held = s.held := rfl
@[simp] theorem chainStep_heldv (b : Block) (s : State) : (chainStep b s).heldv = s.heldv := rfl
@[simp] theorem chainStep_pfb (b : Block) (s : State) : (chainStep b s).pfb = s.pfb := rfl
@[simp] theorem chainStep_any (b : Block) (s : State) : (chainStep b s).any = s.any := rfl
@[simp] theorem chainStep_done (b : Block) (s : State) : (chainStep b s).done = s.done := rfl
@[simp] theorem chainStep_mode (b : Block) (s : State) : (chainStep b s).mode = s.mode := rfl
@[simp] theorem chainStep_job (b : Block) (s : State) : (chainStep b s).job = s.job := rfl
@[simp] theorem chainStep_err (b : Block) (s : State) : (chainStep b s).err = s.err := rfl
@[simp] theorem chainStep_inputs (b : Block) (s : State) : (chainStep b s).inputs = s.inputs := rfl
@[simp] theorem chainStep_resp (b : Block) (s : State) : (chainStep b s).resp = s.resp := rfl

end Sys2Proof.Machine
end

