-- ==== Sys2Proof/Laws/Ops.lean ====
section
/-! SUPPORT. What each shared operation can do, said once: byte arrays, lanes, counters, the `requires` line, fault
entry, and a run of pushes. -/

namespace Sys2Proof.Machine

/-! ### Byte arrays -/

@[simp] theorem getElem_fit {n : Nat} (s : List Byte) (i : Nat) (h : i < n) : (fit n s)[i] = s.getD i 0 := by
  simp [fit]

@[simp] theorem getElem_writePrefix {n : Nat} (a : Bytes n) (s : List Byte) (i : Nat) (h : i < n) :
    (writePrefix a s)[i] = s.getD i a[i] := by
  simp [writePrefix]

@[simp] theorem getElem_xorBytes {n : Nat} (a b : Bytes n) (i : Nat) (h : i < n) :
    (xorBytes a b)[i] = a[i] ^^^ b[i] := by
  simp [xorBytes]

@[simp] theorem getElem_rep {n : Nat} (v : Byte) (i : Nat) (h : i < n) : (rep v n)[i] = v := by
  simp [rep]

@[simp] theorem getElem_bufBlock (s : State) (i : Nat) (h : i < 64) : (bufBlock s)[i] = s.buf[i] := by
  simp [bufBlock]

theorem getElem_storeAt {n : Nat} (a : Bytes n) (k : Nat) (b : Byte) (i : Nat) (h : i < n) :
    (storeAt a k b)[i] = if k = i then b else a[i] := by
  simp [storeAt, Vector.getElem_setIfInBounds]

/-- A sequence of exactly `n` bytes is the byte array's own list. -/
theorem toList_fit {n : Nat} (s : List Byte) (h : s.length = n) : (fit n s).toList = s := by
  apply List.ext_getElem
  · simp [h]
  · intro i h1 h2
    simp [h2]

@[simp] theorem fit_toList {n : Nat} (a : Bytes n) : fit n a.toList = a := by
  ext i h
  simp [h]

theorem bytes_ext_toList {n : Nat} {a b : Bytes n} (h : a.toList = b.toList) : a = b := by
  rw [← fit_toList a, h, fit_toList]

theorem xorBytes_self {n : Nat} (a : Bytes n) : xorBytes a a = rep 0 n := by
  ext1 i h
  simp

theorem xorBytes_cancel {n : Nat} (a b : Bytes n) : xorBytes (xorBytes a b) b = a := by
  ext1 i h
  simp

theorem xorBytes_left_injective {n : Nat} (a : Bytes n) {b c : Bytes n} (h : xorBytes a b = xorBytes a c) :
    b = c := by
  ext1 i hi
  have hx : (xorBytes a b)[i] = (xorBytes a c)[i] := by rw [h]
  simpa using hx

/-! ### Lanes and counters -/

@[simp] theorem length_lanes (n : Size) (v : Word32) : (lanes n v).length = n.bytes := by
  simp [lanes]

theorem size_bytes_cases (n : Size) : n.bytes = 1 ∨ n.bytes = 2 ∨ n.bytes = 4 := by
  cases n <;> simp [Size.bytes]

theorem size_bytes_pos (n : Size) : 0 < n.bytes := by
  cases n <;> simp [Size.bytes]

theorem size_bytes_le (n : Size) : n.bytes ≤ 4 := by
  cases n <;> simp [Size.bytes]

/-- A saturating counter counts and stays at 255 (R132). -/
theorem satInc_toNat (c : BitVec 8) : (satInc c).toNat = min (c.toNat + 1) 255 := by
  simp [satInc]

/-! ### Answers -/

theorem reply_eq_next {r : Option Word32} {s t : State} : reply r s = .next t ↔ t = { s with resp := r } := by
  simp [reply, eq_comm]

theorem unlessFaulted_live {r : Option Word32} {s : State} {k : Result} (h : s.mode ≠ .fault) :
    unlessFaulted r s k = k := by
  simp [unlessFaulted, h]

theorem unlessFaulted_faulted {r : Option Word32} {s : State} {k : Result} (h : s.mode = .fault) :
    unlessFaulted r s k = reply r s := by
  simp [unlessFaulted, h]

theorem require_holds {c : Prop} [Decidable c] {code : FaultCode} {r : Option Word32} {s : State} {k : Result}
    (h : c) : require c code r s k = k := by
  simp [require, h]

theorem require_fails {c : Prop} [Decidable c] {code : FaultCode} {r : Option Word32} {s : State} {k : Result}
    (h : ¬ c) : require c code r s k = reply r (raiseFault code s) := by
  simp [require, h]

/-- All that a `requires` line can do: the condition holds and the rest answers, or fault entry is the whole effect. -/
theorem require_cases {c : Prop} [Decidable c] {code : FaultCode} {r : Option Word32} {s t : State} {k : Result}
    (h : require c code r s k = .next t) :
    (c ∧ k = .next t) ∨ (¬ c ∧ t = { raiseFault code s with resp := r }) := by
  by_cases hc : c
  · exact .inl ⟨hc, by rwa [require_holds hc] at h⟩
  · rw [require_fails hc, reply_eq_next] at h
    exact .inr ⟨hc, h⟩

/-- All that a transaction can do about `FAULT` mode: it is ignored there, and has its effect elsewhere. -/
theorem unlessFaulted_cases {r : Option Word32} {s t : State} {k : Result} (h : unlessFaulted r s k = .next t) :
    (s.mode ≠ .fault ∧ k = .next t) ∨ (s.mode = .fault ∧ t = { s with resp := r }) := by
  by_cases hm : s.mode = .fault
  · rw [unlessFaulted_faulted hm, reply_eq_next] at h
    exact .inr ⟨hm, h⟩
  · exact .inl ⟨hm, by rwa [unlessFaulted_live hm] at h⟩

/-! ### Ports -/

/-- A push that fills a block in a stream mode latches the job `BLOCK` (R187). -/
theorem latchBlock_latches {s : State} (h1 : s.mode = .enc ∨ s.mode = .dec) (h2 : 64 ≤ s.bufcnt.toNat) :
    latchBlock s = { s with job := .block } := by
  have : s.streaming = true := by rcases h1 with h | h <;> simp [State.streaming, h]
  rw [latchBlock, if_pos ⟨this, h2⟩]

/-- Every other push latches nothing. -/
theorem latchBlock_waits {s : State} (h : s.mode = .enc ∨ s.mode = .dec → s.bufcnt.toNat < 64) : latchBlock s = s := by
  have hn : ¬ (s.streaming = true ∧ 64 ≤ s.bufcnt.toNat) := by
    rintro ⟨h1, h2⟩
    have := h (by simpa [State.streaming] using h1)
    omega
  rw [latchBlock, if_neg hn]

/-- All that the output pointer can do at a pop (R190). -/
theorem advanceOutput_cases (n : Size) (s : State) :
    (s.ord.toNat + n.bytes = s.olen.toNat ∧ advanceOutput n s = { s with olen := 0, ord := 0 }) ∨
    (s.ord.toNat + n.bytes ≠ s.olen.toNat ∧
      advanceOutput n s = { s with ord := BitVec.ofNat 7 (s.ord.toNat + n.bytes) }) := by
  by_cases h : s.ord.toNat + n.bytes = s.olen.toNat
  · exact .inl ⟨h, by rw [advanceOutput, if_pos h]⟩
  · exact .inr ⟨h, by rw [advanceOutput, if_neg h]⟩

/-- The final-block rule leaves 1 to 64 bytes, if any (R244). -/
theorem finalRule_length {h : Block} {f : List Byte} (hf : finalRule h = some f) : 1 ≤ f.length ∧ f.length ≤ 64 := by
  unfold finalRule at hf
  split at hf
  · simp at hf
  · split at hf
    · simp only [Option.some.injEq] at hf
      subst hf
      simp
      omega
    · simp only [Option.some.injEq] at hf
      subst hf
      simp

/-- The shift in closed form (R188). -/
theorem writePrefix_shift (a : Bytes 67) (r : Nat) :
    writePrefix a ((a.toList.drop 64).take r) = shiftedBytes a r := by
  ext1 i hi
  rw [getElem_writePrefix]
  simp only [shiftedBytes, Vector.getElem_ofFn, List.getD_eq_getElem?_getD, List.getElem?_take, List.getElem?_drop]
  split <;> simp

/-- What the shift does to the state (R188). -/
theorem shiftBuf_eq (s : State) :
    shiftBuf s = { s with
      buf := shiftedBytes s.buf (s.bufcnt.toNat - 64), bufcnt := BitVec.ofNat 8 (s.bufcnt.toNat - 64) } := by
  rw [shiftBuf, writePrefix_shift]

/-- What `BUF` holds is `BUFCNT` bytes, as long as they fit (R23). -/
theorem length_bufBytes (s : State) : (bufBytes s).length = min s.bufcnt.toNat 67 := by
  simp [bufBytes]

/-- Every ciphertext block gives one plaintext block (R245). -/
theorem length_plainChain (key : Key) (chain : Block) (cs : List Block) :
    (plainChain key chain cs).length = cs.length := by
  induction cs generalizing chain with
  | nil => rfl
  | cons c cs ih => simp only [plainChain, List.length_cons, ih]

/-- Recovery goes on from the last ciphertext block (R241, R245). -/
theorem plainChain_append (key : Key) (chain : Block) (cs ds : List Block) :
    plainChain key chain (cs ++ ds) = plainChain key chain cs ++ plainChain key (cs.getLast?.getD chain) ds := by
  induction cs generalizing chain with
  | nil => rfl
  | cons c cs ih =>
    rw [List.cons_append, plainChain, plainChain, ih, List.cons_append, List.getLast?_cons, Option.getD_some]

/-! ### The invariants -/

/-- The invariants speak of the counters, the flags, `MODE`, `JOB` and `ERR` only. -/
theorem inv_of_same_control {s t : State} (h : s.Inv) (h1 : t.keylen = s.keylen) (h2 : t.ivlen = s.ivlen)
    (h3 : t.bufcnt = s.bufcnt) (h4 : t.olen = s.olen) (h5 : t.ord = s.ord) (h6 : t.heldv = s.heldv)
    (h7 : t.pfb = s.pfb) (h8 : t.any = s.any) (h9 : t.done = s.done) (h10 : t.mode = s.mode) (h11 : t.job = s.job)
    (h12 : t.err = s.err) : t.Inv := by
  obtain ⟨a, b, c, d, e, f, g, i, j⟩ := h
  constructor <;> simp only [State.outputWithin, State.jobNeedsRoom, State.transformLoaded, State.streamJobOpen,
    State.streamLengths, State.bufferBounds, State.faultDiscards, State.modeFlags, State.markerFlags, State.oavail,
    State.markerNeeded, h1, h2, h3, h4, h5, h6, h7, h8, h9, h10, h11, h12] at * <;> assumption

/-- Fault entry keeps the invariants (R310). -/
theorem raiseFault_keeps_inv (c : FaultCode) {s : State} (h : s.Inv) : (raiseFault c s).Inv := by
  have g := h.faultDiscards
  constructor <;> simp [State.outputWithin, State.jobNeedsRoom, State.transformLoaded, State.streamJobOpen,
    State.streamLengths, State.bufferBounds, State.faultDiscards, State.modeFlags, State.markerFlags]
  simp [State.faultDiscards] at g
  split <;> simp_all

/-! ### What a host can see, and streams in progress -/

/-- Two states look the same to a host exactly when they agree in every field but the bytes of `KEY`, `IV`, `BUF`,
`CHAIN` and `HELD`. -/
theorem hideSecrets_eq_iff (s t : State) : s.hideSecrets = t.hideSecrets ↔
    s.keylen = t.keylen ∧ s.ivlen = t.ivlen ∧ s.bufcnt = t.bufcnt ∧ s.obuf = t.obuf ∧ s.olen = t.olen ∧
      s.ord = t.ord ∧ s.heldv = t.heldv ∧ s.pfb = t.pfb ∧ s.any = t.any ∧ s.done = t.done ∧ s.mode = t.mode ∧
      s.job = t.job ∧ s.err = t.err ∧ s.inputs = t.inputs ∧ s.resp = t.resp := by
  simp only [State.hideSecrets, State.mk.injEq, true_and]

/-- An encryption in progress is a matter of `MODE`, `KEY`, `BUF`, `BUFCNT`, `CHAIN`, `PFB` and `ANY` only. -/
theorem encStream_of_same_fields {key : Key} {iv : Block} {p : List Byte} {out : List Block} {s t : State}
    (h : EncStream key iv p out s) (h1 : t.mode = s.mode) (h2 : t.key = s.key) (h3 : t.buf = s.buf)
    (h4 : t.bufcnt = s.bufcnt) (h5 : t.chain = s.chain) (h6 : t.pfb = s.pfb) (h7 : t.any = s.any) :
    EncStream key iv p out t := by
  have hb : bufBytes t = bufBytes s := by simp only [bufBytes, h3, h4]
  exact ⟨h1.trans h.isEnc, h2.trans h.keyIs, hb ▸ h.taken, h5.trans h.chainIs, by rw [h6, h7]; exact h.flagsAre⟩

/-- A decryption in progress is a matter of `MODE`, `KEY`, `BUF`, `BUFCNT`, `CHAIN`, `HELD` and `HELDV` only. -/
theorem decStream_of_same_fields {key : Key} {iv : Block} {c : List Byte} {out : List Block} {s t : State}
    (h : DecStream key iv c out s) (h1 : t.mode = s.mode) (h2 : t.key = s.key) (h3 : t.buf = s.buf)
    (h4 : t.bufcnt = s.bufcnt) (h5 : t.chain = s.chain) (h6 : t.held = s.held) (h7 : t.heldv = s.heldv) :
    DecStream key iv c out t := by
  have hb : bufBytes t = bufBytes s := by simp only [bufBytes, h3, h4]
  exact ⟨h1.trans h.isDec, h2.trans h.keyIs, by rw [hb, h5, h6, h7]; exact h.taken⟩

end Sys2Proof.Machine
end

