-- ==== Sys2Proof/Laws/PerInstr.lean ====
section
/-! SUPPORT. A statement for every instruction, one lemma per constructor: the encoding of an instruction is a
transaction of its own row of the opcode map. -/

namespace Sys2Proof.Laws.EncodeMatchesRow

/-- The row of an instruction selects its encoding, whose `sz` field names a size (R91, R94). -/
def Statement (i : Instr) : Prop := rowSelects i (encode i) = true ∧ Descriptor.sz (encode i) ≠ 3

/-- A mask that keeps only bits above the data field keeps the same bits whatever the data. -/
theorem and_of_data_free (d : BitVec 1) (s : BitVec 2) (o : BitVec 6) (v : Word32) (m : Descriptor)
    (hm : m &&& 0x000FFFFFFFF = 0) : descriptor d s o v &&& m = descriptor d s o 0 &&& m := by
  apply BitVec.eq_of_getLsbD_eq
  intro i hi
  have hb : (m &&& 0x000FFFFFFFF).getLsbD i = false := by rw [hm]; simp
  rw [BitVec.getLsbD_and] at hb
  rw [BitVec.getLsbD_and, BitVec.getLsbD_and, descriptor_getLsbD, descriptor_getLsbD]
  by_cases h : i < 32
  · have hl : (0x000FFFFFFFF : Descriptor).getLsbD i = true := by
      rw [show (0x000FFFFFFFF : Descriptor) = BitVec.ofNat 41 (2 ^ 32 - 1) from rfl,
        BitVec.getLsbD_ofNat, Nat.testBit_two_pow_sub_one]
      simp [hi, h]
    rw [hl, Bool.and_true] at hb
    rw [hb, Bool.and_false, Bool.and_false]
  · rw [if_neg h, if_neg h]

theorem reset : Statement .reset := by constructor <;> decide

theorem abort : Statement .abort := by constructor <;> decide

theorem clrkey : Statement .clrkey := by constructor <;> decide

theorem clriv : Statement .clriv := by constructor <;> decide

theorem fwd : Statement .fwd := by constructor <;> decide

theorem bwd : Statement .bwd := by constructor <;> decide

theorem encStart : Statement .encStart := by constructor <;> decide

theorem decStart : Statement .decStart := by constructor <;> decide

theorem final : Statement .final := by constructor <;> decide

theorem pushk (n : Size) (v : Word32) : Statement (.pushk n v) := by
  constructor
  · simp only [rowSelects, encode, memWrite, tableMask, tablePattern]
    rw [and_of_data_free _ _ _ _ _ (by decide)]
    cases n <;> decide
  · simp only [encode, memWrite, descriptor_sz]
    cases n <;> decide

theorem pushiv (n : Size) (v : Word32) : Statement (.pushiv n v) := by
  constructor
  · simp only [rowSelects, encode, memWrite, tableMask, tablePattern]
    rw [and_of_data_free _ _ _ _ _ (by decide)]
    cases n <;> decide
  · simp only [encode, memWrite, descriptor_sz]
    cases n <;> decide

theorem pushd (n : Size) (v : Word32) : Statement (.pushd n v) := by
  constructor
  · simp only [rowSelects, encode, memWrite, tableMask, tablePattern]
    rw [and_of_data_free _ _ _ _ _ (by decide)]
    cases n <;> decide
  · simp only [encode, memWrite, descriptor_sz]
    cases n <;> decide

theorem pop (n : Size) : Statement (.pop n) := by cases n <;> constructor <;> decide

theorem rdid : Statement .rdid := by constructor <;> decide

theorem rdparam : Statement .rdparam := by constructor <;> decide

theorem rdstatus : Statement .rdstatus := by constructor <;> decide

theorem rdlen : Statement .rdlen := by constructor <;> decide

end Sys2Proof.Laws.EncodeMatchesRow
end

