-- ==== Sys2Proof/Laws/Pushes.lean ====
section
/-! SUPPORT. A run of pushes in closed form: where the bytes of a transaction land, and what the counter becomes. -/

namespace Sys2Proof.Machine

/-- A byte array after the bytes of `l` were stored from position `c` on, as far as they fit. -/
def storeRun {m : Nat} (a : Bytes m) (c : Nat) (l : List Byte) : Bytes m :=
  Vector.ofFn fun i => if c ≤ i.val then l.getD (i.val - c) a[i] else a[i]

/-- A counter after `k` bytes were pushed. -/
def countRun (c : BitVec 8) (k : Nat) : BitVec 8 := BitVec.ofNat 8 (min (c.toNat + k) 255)

theorem getElem_storeRun {m : Nat} (a : Bytes m) (c : Nat) (l : List Byte) (i : Nat) (h : i < m) :
    (storeRun a c l)[i] = if c ≤ i then l.getD (i - c) a[i] else a[i] := by
  simp [storeRun]

theorem countRun_toNat (c : BitVec 8) (k : Nat) : (countRun c k).toNat = min (c.toNat + k) 255 := by
  simp only [countRun, BitVec.toNat_ofNat]
  omega

theorem countRun_zero (c : BitVec 8) : countRun c 0 = c := by
  apply BitVec.eq_of_toNat_eq
  rw [countRun_toNat]
  omega

theorem countRun_succ (c : BitVec 8) (k : Nat) : countRun (satInc c) k = countRun c (k + 1) := by
  apply BitVec.eq_of_toNat_eq
  rw [countRun_toNat, countRun_toNat, satInc_toNat]
  omega

theorem storeRun_nil {m : Nat} (a : Bytes m) (c : Nat) : storeRun a c [] = a := by
  ext1 i hi
  simp [getElem_storeRun]

/-- One push, then the rest: the array holds at most 255 bytes, so a saturated counter stores nothing. -/
theorem storeRun_cons {m : Nat} (a : Bytes m) (c : BitVec 8) (b : Byte) (l : List Byte) (hm : m ≤ 255) :
    storeRun (storeAt a c.toNat b) (satInc c).toNat l = storeRun a c.toNat (b :: l) := by
  ext1 i hi
  rw [getElem_storeRun, getElem_storeRun, getElem_storeAt, satInc_toNat]
  by_cases h1 : c.toNat ≤ i
  · rcases Nat.eq_or_lt_of_le h1 with h2 | h2
    · have h3 : ¬ min (c.toNat + 1) 255 ≤ i := by omega
      have h4 : i - c.toNat = 0 := by omega
      rw [if_neg h3, if_pos h2, if_pos h1, h4, List.getD_cons_zero]
    · have h3 : min (c.toNat + 1) 255 = c.toNat + 1 := by omega
      have h4 : i - c.toNat = i - (c.toNat + 1) + 1 := by omega
      simp [h3, h4, h1, Nat.ne_of_lt h2, Nat.succ_le_of_lt h2]
  · have h2 : ¬ min (c.toNat + 1) 255 ≤ i := by omega
    have h3 : ¬ c.toNat = i := by omega
    simp [h1, h2, h3]

theorem foldl_pushKeyByte (l : List Byte) (s : State) :
    l.foldl pushKeyByte s =
      { s with key := storeRun s.key s.keylen.toNat l, keylen := countRun s.keylen l.length } := by
  induction l generalizing s with
  | nil => rw [List.foldl_nil, storeRun_nil, List.length_nil, countRun_zero]
  | cons b l ih =>
    rw [List.foldl_cons, ih, pushKeyByte_key, pushKeyByte_keylen, storeRun_cons _ _ _ _ (by omega), countRun_succ,
      List.length_cons]
    rfl

theorem foldl_pushIvByte (l : List Byte) (s : State) :
    l.foldl pushIvByte s =
      { s with iv := storeRun s.iv s.ivlen.toNat l, ivlen := countRun s.ivlen l.length } := by
  induction l generalizing s with
  | nil => rw [List.foldl_nil, storeRun_nil, List.length_nil, countRun_zero]
  | cons b l ih =>
    rw [List.foldl_cons, ih, pushIvByte_iv, pushIvByte_ivlen, storeRun_cons _ _ _ _ (by omega), countRun_succ,
      List.length_cons]
    rfl

theorem foldl_pushBufByte (l : List Byte) (s : State) :
    l.foldl pushBufByte s =
      { s with buf := storeRun s.buf s.bufcnt.toNat l, bufcnt := countRun s.bufcnt l.length } := by
  induction l generalizing s with
  | nil => rw [List.foldl_nil, storeRun_nil, List.length_nil, countRun_zero]
  | cons b l ih =>
    rw [List.foldl_cons, ih, pushBufByte_buf, pushBufByte_bufcnt, storeRun_cons _ _ _ _ (by omega), countRun_succ,
      List.length_cons]
    rfl

/-- The lanes of a transaction, stored: the form in which the statements say it. -/
theorem storeRun_lanes {m : Nat} (a : Bytes m) (c : Nat) (n : Size) (v : Word32) :
    storeRun a c (lanes n v) = pushedBytes a c n v := by
  ext1 i hi
  rw [getElem_storeRun]
  simp only [pushedBytes, Vector.getElem_ofFn]
  by_cases h1 : c ≤ i
  · by_cases h2 : i < c + n.bytes
    · have h3 : i - c < n.bytes := by omega
      simp [h1, h2, lanes, List.getD, h3]
    · have h3 : ¬ i - c < n.bytes := by omega
      simp [h1, h2, lanes, List.getD, h3]
  · simp [h1]

theorem countRun_lanes (c : BitVec 8) (n : Size) (v : Word32) :
    countRun c (lanes n v).length = pushedCount c n := by
  rw [length_lanes]
  rfl

end Sys2Proof.Machine
end

