-- ==== Sys2Proof/Machine/HostNotation.lean ====
section
/-! DEFINITION. The host's notation (R100) and its pseudo-instructions (R101), as a host that issues transactions and
lets the engine take its turn where it waits. -/

namespace Sys2Proof.Machine

/-- `split(s)`: pieces of 4 bytes while at least 4 remain, then one of 2, then one of 1 (R101). -/
def split : List Byte → List (List Byte)
  | [] => []
  | [a] => [[a]]
  | [a, b] => [[a, b]]
  | [a, b, c] => [[a, b], [c]]
  | a :: b :: c :: d :: rest => [a, b, c, d] :: split rest

/-- The size of a transaction that carries a piece of 1, 2 or 4 bytes (R101). -/
def pieceSize (p : List Byte) : Size := if p.length = 1 then .b1 else if p.length = 2 then .b2 else .b4

/-- `le(p)`: byte `p[j]` in bits `[8j+7:8j]` (R101). -/
def le (p : List Byte) : Word32 := fromLanes p

/-- The expansion of `loadkey s` (R101). -/
def loadkey (s : List Byte) : List Instr := .clrkey :: (split s).map fun p => .pushk (pieceSize p) (le p)

/-- The expansion of `loadiv s` (R101). -/
def loadiv (s : List Byte) : List Instr := .clriv :: (split s).map fun p => .pushiv (pieceSize p) (le p)

/-- The state after a step, or the same state where the step has no next state. -/
def afterStep (s : State) : State :=
  match step s with
  | .next t => t
  | .fault _ => s
  | .refused _ => s

/-- The host issues one instruction, as its transaction (R100). -/
def issue (s : State) (i : Instr) : State := afterStep (offer (encode i) s)

/-- The line `step` of a listing: the engine takes its turn (R100). -/
def engineTurn (s : State) : State := afterStep { s with inputs := .engine :: s.inputs }

/-- The value that the latest read returned, 0 if the latest step was no read. -/
def State.readValue (s : State) : Word32 := s.resp.getD 0

/-- `wait`: repeat `rdstatus` until `BUSY = 0`, at most `n` times, the engine taking its turn in between (R101;
log 18). -/
def wait : Nat → State → State
  | 0, s => s
  | n + 1, s =>
    let t := issue s .rdstatus
    if t.readValue.extractLsb' 0 1 = 0 then t else wait n (engineTurn t)

/-- `OAVAIL` in a value of `LEN`: bits 31:24 (R41). -/
def lenOavail (len : Word32) : Nat := (len.extractLsb' 24 8).toNat

/-- The size of the next pop of `drain` (R101). -/
def popSize (avail : Nat) : Size := if 4 ≤ avail then .b4 else if 2 ≤ avail then .b2 else .b1

/-- The pops of `drain`, at most `n` of them, with the popped bytes in order (R101). How the host knows `OAVAIL` between
the pops is the model's choice: it counts down from the value that the one `rdlen` returned (log 19). -/
def drainLoop : Nat → Nat → State → State × List Byte
  | 0, _, s => (s, [])
  | n + 1, avail, s =>
    if avail = 0 then (s, [])
    else
      let t := issue s (.pop (popSize avail))
      let r := drainLoop n (avail - (popSize avail).bytes) t
      (r.1, lanes (popSize avail) t.readValue ++ r.2)

/-- `drain`: one `rdlen`, then the pops; the 64 bytes of the output buffer take at most 64 of them (R101; log 18, 19). -/
def drain (s : State) : State × List Byte :=
  let t := issue s .rdlen
  drainLoop 64 (lenOavail t.readValue) t

/-- One piece of `send`: drain first where the push would complete a block with output undrained (R101). That the host
knows `MODE`, `BUFCNT` and `OAVAIL` there without a transaction is the model's choice (log 20). -/
def sendPiece (acc : State × List Byte) (p : List Byte) : State × List Byte :=
  let s := acc.1
  let r := if s.streaming = true ∧ 64 ≤ s.bufcnt.toNat + p.length ∧ 0 < s.oavail then drain s else (s, [])
  (wait 2 (issue r.1 (.pushd (pieceSize p) (le p))), acc.2 ++ r.2)

/-- `send s`, with the bytes that its drains returned (R101). -/
def send (data : List Byte) (s : State) : State × List Byte := (split data).foldl sendPiece (s, [])

/-- `encrypt k, iv, s` and `decrypt k, iv, s`: load, start, send, finish, with every byte drained (R101). -/
def runStream (start : Instr) (key iv data : List Byte) (s : State) : State × List Byte :=
  let loaded := issue ((loadkey key ++ loadiv iv).foldl issue s) start
  let sent := send data loaded
  let first := drain sent.1
  let last := drain (wait 2 (issue first.1 .final))
  (last.1, sent.2 ++ first.2 ++ last.2)

/-- The pseudo-instruction `encrypt k, iv, s` (R101). -/
def runEncrypt (key iv data : List Byte) (s : State) : State × List Byte := runStream .encStart key iv data s

/-- The pseudo-instruction `decrypt k, iv, s` (R101). -/
def runDecrypt (key iv data : List Byte) (s : State) : State × List Byte := runStream .decStart key iv data s

/-- The pseudo-instruction `feistel k, b, dir`, `dir` being `FWD` or `BWD` (R101). -/
def runFeistel (key block : List Byte) (dir : Instr) (s : State) : State × List Byte :=
  let sent := send block ((loadkey key).foldl issue s)
  let done := drain (wait 2 (issue sent.1 dir))
  (done.1, sent.2 ++ done.2)

end Sys2Proof.Machine
end

