-- ==== Sys2Proof/Tests/Slice0.lean ====
section
/-! SUPPORT. Tests of single steps against the vectors of spec/95_test_vectors.md, smoke tests of well-formedness and
decoding, and for every statement with hypotheses a concrete state and operands that meet them. -/

namespace Sys2Proof.Tests

open Sys2Proof.Machine

/-! ### Well-formedness: an ill-formed term for each check -/

theorem test_wf_refuses_pushk_byte_above_255 : Instr.wf (.pushk .b1 0x100) = false := by decide
theorem test_wf_refuses_pushiv_half_above_65535 : Instr.wf (.pushiv .b2 0x10000) = false := by decide
theorem test_wf_refuses_pushd_byte_above_255 : Instr.wf (.pushd .b1 0x80000000) = false := by decide
theorem test_wf_accepts_largest_values :
    Instr.wf (.pushk .b1 0xFF) = true ∧ Instr.wf (.pushiv .b2 0xFFFF) = true ∧
      Instr.wf (.pushd .b4 0xFFFFFFFF) = true := by decide

/-! ### Decoding: a word of every row, built bit by bit from the fields of R91 and the rows of R94 -/

theorem test_decode_reset : decode 0b11000100000000000000000000000000000000001 = .ok .reset := by decide
theorem test_decode_abort : decode 0b11000100000000000000000000000000000000010 = .ok .abort := by decide
theorem test_decode_clrkey : decode 0b11000100000000000000000000000000000000011 = .ok .clrkey := by decide
theorem test_decode_clriv : decode 0b11000100000000000000000000000000000000100 = .ok .clriv := by decide
theorem test_decode_fwd : decode 0b11000100000000000000000000000000000010000 = .ok .fwd := by decide
theorem test_decode_bwd : decode 0b11000100000000000000000000000000000010001 = .ok .bwd := by decide
theorem test_decode_encStart : decode 0b11000100000000000000000000000000000100000 = .ok .encStart := by decide
theorem test_decode_decStart : decode 0b11000100000000000000000000000000000100001 = .ok .decStart := by decide
theorem test_decode_final : decode 0b11000100000000000000000000000000000100010 = .ok .final := by decide
theorem test_decode_pushk : decode 0b11001000011011101110111011101110111011101 = .ok (.pushk .b4 0xDDDDDDDD) := by decide
theorem test_decode_pushiv : decode 0b10101010000000000000000001000000000000001 = .ok (.pushiv .b2 0x8001) := by decide
theorem test_decode_pushd : decode 0b10001100000000000000000000000000010100101 = .ok (.pushd .b1 0xA5) := by decide
theorem test_decode_pop : decode 0b00001110000000000000000000000000000000000 = .ok (.pop .b1) := by decide
theorem test_decode_rdid : decode 0b01000000000000000000000000000000000000000 = .ok .rdid := by decide
theorem test_decode_rdparam : decode 0b01000010000000000000000000000000000000000 = .ok .rdparam := by decide
theorem test_decode_rdstatus : decode 0b01000110000000000000000000000000000000000 = .ok .rdstatus := by decide
theorem test_decode_rdlen : decode 0b01010000000000000000000000000000000000000 = .ok .rdlen := by decide
theorem test_decode_refuses_size_3 : decode 0x1D000000000 = .error .notATransaction := by decide
theorem test_decode_refuses_reserved_bit_of_cmd : decode 0x18800000120 = .error .illegalCommand := by decide
theorem test_decode_refuses_reserved_opcode : decode 0x18800000023 = .error .illegalCommand := by decide
theorem test_decode_refuses_read_of_keyin : decode 0x09000000000 = .error .illAddressedRead := by decide
theorem test_decode_refuses_write_inside_register : decode 0x11900000000 = .error .illAddressedWrite := by decide
theorem test_tableWord : decodeTableWord 41 0x18800000020 = some .encStart := by decide

/-! ### States and observations -/

/-- The state after a result that has one. -/
def nextState (r : Result) : State :=
  match r with
  | .next t => t
  | .fault _ => State.reset
  | .refused _ => State.reset

/-- The result has a next state. -/
def completes (r : Result) : Bool :=
  match r with
  | .next _ => true
  | .fault _ => false
  | .refused _ => false

theorem next_of_completes {r : Result} (h : completes r = true) : r = .next (nextState r) := by
  cases r
  · rfl
  · cases h
  · cases h

/-- `STATUS`, `LEN` and the value returned, as a row of section 8 of the vectors shows them. -/
def seen (r : Result) : Word32 × Word32 × Option Word32 :=
  (statusWord (nextState r), lenWord (nextState r), (nextState r).resp)

/-- "key": a key of 32 zero bytes is loaded. -/
def keyed : State := { State.reset with keylen := 32 }

/-- "key, IV": a key of 32 and an IV of 64 zero bytes are loaded. -/
def loaded : State := { keyed with ivlen := 64 }

/-- "ENC": an encryption is open. -/
def encrypting : State := { loaded with mode := .enc }

/-- "DEC": a decryption is open. -/
def decrypting : State := { loaded with mode := .dec }

/-- An encryption whose first block has been emitted and not popped; the block begins with `db 6e a7 18` (vector F1). -/
def emitted : State :=
  { encrypting with
    pfb := true, any := true, olen := 64
    obuf := fit 64 ([0xdb, 0x6e, 0xa7, 0x18] ++ List.replicate 58 0x00 ++ [0xe5, 0xf5]) }

/-- A fault has been taken. -/
def faulted : State := raiseFault .busError State.reset

/-! ### Instructions: rows of section 8 -/

theorem test_pushk_counts_past_the_end :
    seen (exec (.pushk .b4 0xdddddddd) { State.reset with keylen := 30 }) = (0x00000000, 0x00000022, none) := by decide

theorem test_pushk_stores_two_of_four :
    (nextState (exec (.pushk .b4 0xd4d3d2d1) { State.reset with keylen := 30 })).key.toList.drop 29 =
      [0x00, 0xd1, 0xd2] := by decide

theorem test_pushk_in_enc_is_protocol_error :
    seen (exec (.pushk .b1 0x00) encrypting) = (0x00005700, 0x00004020, none) := by decide

theorem test_pushiv_counts_past_the_end :
    seen (exec (.pushiv .b4 0x00000000) loaded) = (0x00000000, 0x00004420, none) := by decide

theorem test_pushd_in_idle_counts_past_the_end :
    seen (exec (.pushd .b4 0x00000000) { State.reset with bufcnt := 66 }) = (0x00000000, 0x00460000, none) := by decide

theorem test_pushd_completes_a_block :
    seen (exec (.pushd .b1 0x00) { encrypting with bufcnt := 63 }) = (0x00030101, 0x00404020, none) := by decide

theorem test_pop_is_little_endian :
    seen (exec (.pop .b4) emitted) = (0x00000118, 0x3c004020, some 0x18a76edb) := by decide

theorem test_pop_underrun_pops_nothing :
    seen (exec (.pop .b4) { emitted with ord := 62 }) = (0x00005718, 0x00004020, some 0x00000000) := by decide

theorem test_fwd_checks_the_key_before_the_block :
    seen (exec .fwd { State.reset with keylen := 33, bufcnt := 63 }) = (0x00001700, 0x00000021, none) := by decide

theorem test_fwd_refuses_65_operand_bytes :
    seen (exec .fwd { keyed with bufcnt := 65 }) = (0x00003700, 0x00000020, none) := by decide

theorem test_bwd_latches_its_job :
    seen (exec .bwd { keyed with bufcnt := 64 }) = (0x00020001, 0x00400020, none) := by decide

theorem test_encStart_needs_64_iv_bytes :
    seen (exec .encStart { keyed with ivlen := 63 }) = (0x00002700, 0x00003f20, none) := by decide

theorem test_encStart_opens :
    seen (exec .encStart loaded) = (0x00000100, 0x00004020, none) := by decide

theorem test_decStart_refuses_65_iv_bytes :
    seen (exec .decStart { keyed with ivlen := 65 }) = (0x00002700, 0x00004120, none) := by decide

theorem test_final_with_left_over_ciphertext :
    seen (exec .final { decrypting with bufcnt := 5 }) = (0x00003700, 0x00004020, none) := by decide

theorem test_final_latches_its_job :
    seen (exec .final encrypting) = (0x00040101, 0x00004020, none) := by decide

theorem test_abort_keeps_key_and_iv :
    seen (exec .abort { emitted with bufcnt := 10 }) = (0x00000000, 0x00004020, none) := by decide

theorem test_abort_cancels_a_job :
    seen (exec .abort { encrypting with bufcnt := 64, job := .block }) = (0x00000000, 0x00004020, none) := by decide

theorem test_clrkey :
    seen (exec .clrkey loaded) = (0x00000000, 0x00004000, none) := by decide

theorem test_clriv_in_dec_is_protocol_error :
    seen (exec .clriv decrypting) = (0x00005700, 0x00004020, none) := by decide

theorem test_reset_leaves_fault_mode :
    seen (exec .reset faulted) = (0x00000000, 0x00000000, none) := by decide

theorem test_rdstatus_while_busy :
    seen (exec .rdstatus { decrypting with bufcnt := 64, job := .block }) = (0x00030201, 0x00404020, some 0x00030201) := by decide

theorem test_rdlen :
    seen (exec .rdlen emitted) = (0x00000118, 0x40004020, some 0x40004020) := by decide

theorem test_rdid :
    seen (exec .rdid faulted) = (0x00006700, 0x00000000, some 0x48534643) := by decide

theorem test_rdparam :
    seen (exec .rdparam State.reset) = (0x00000000, 0x00000000, some 0x00104020) := by decide


/-! ### The step: transactions as they stand on the bus -/

theorem test_step_runs_the_next_transaction :
    seen (step (State.reset.withFetchWord 41 0x190dddddddd)) = (0x00000000, 0x00000004, none) := by decide

theorem test_step_reads_an_unmapped_offset :
    seen (step (State.reset.withFetchWord 41 0x0a400000000)) = (0x00006700, 0x00000000, some 0x00000000) := by decide

theorem test_step_writes_a_reserved_command :
    seen (step (State.reset.withFetchWord 41 0x18800000120)) = (0x00004700, 0x00000000, none) := by decide

theorem test_step_takes_illegalCommand_before_protocolError :
    seen (step ({ encrypting with bufcnt := 64, job := .block }.withFetchWord 41 0x18800000023)) = (0x00004700, 0x00004020, none) := by decide


/-! ### The function layer: the vectors of sections 2 to 7 -/

/-- H2. -/
theorem test_sha256_abc : (sha256 [0x61, 0x62, 0x63]).toList =
    [0xba, 0x78, 0x16, 0xbf, 0x8f, 0x01, 0xcf, 0xea, 0x41, 0x41, 0x40, 0xde, 0x5d, 0xae, 0x22, 0x23] ++
    [0xb0, 0x03, 0x61, 0xa3, 0x96, 0x17, 0x7a, 0x9c, 0xb4, 0x10, 0xff, 0x61, 0xf2, 0x00, 0x15, 0xad] := by
  decide +kernel

/-- M5, which is `derive(Z32, 0)` and so a row of section 3. -/
theorem test_derive_zero_key_round_0 : (derive (rep 0 32) 0).toList =
    [0x66, 0x20, 0xb3, 0x1f, 0x29, 0x24, 0xb8, 0xc0, 0x15, 0x47, 0x74, 0x5f, 0x41, 0x82, 0x5d, 0x32] ++
    [0x23, 0x36, 0xf8, 0x3e, 0xbb, 0x13, 0xd7, 0x23, 0x67, 0x87, 0x89, 0xd5, 0x54, 0xd8, 0xa3, 0xef] := by
  decide +kernel

/-- F9, the shape of every call of the round function: a 32-byte key and a 32-byte message. -/
theorem test_round_function :
    (hmac ([0xe7, 0x11, 0x54, 0x6e, 0x3f, 0xaa, 0xd4, 0xc7, 0xc4, 0xaa, 0x75, 0x6b, 0xc2, 0x6c, 0xad, 0x6a] ++
    [0xbe, 0xa8, 0x24, 0x19, 0x84, 0xa0, 0xf6, 0xb0, 0x83, 0x9c, 0x70, 0xca, 0x61, 0xc4, 0xef, 0x88])
      ((List.range 32).map fun i => BitVec.ofNat 8 (32 + i))).toList =
    [0x26, 0x61, 0x43, 0x3a, 0xc8, 0xe1, 0xec, 0xfd, 0x30, 0x17, 0x29, 0x0e, 0x1e, 0xc1, 0x5b, 0x73] ++
    [0x38, 0x07, 0x04, 0xc4, 0xc2, 0x61, 0x2f, 0x4a, 0x42, 0xa9, 0xc0, 0xa7, 0xb5, 0x70, 0xbe, 0xba] := by
  decide +kernel

/-- The last row of the trace of section 4.1, and its output F1. -/
theorem test_last_round_of_forward :
    (joinHalves (forwardRound (rep 0 32)
      { left := fit 32 ([0xdc, 0xdb, 0x90, 0x01, 0x7e, 0xf8, 0xd2, 0xbd, 0xbc, 0x9b, 0x22, 0x64, 0x16, 0xe5, 0xae, 0x29] ++
        [0xd1, 0x75, 0xec, 0x20, 0xaf, 0x76, 0x54, 0x0d, 0x79, 0x1e, 0xce, 0x7f, 0xca, 0xa2, 0x40, 0xfb])
        right := fit 32 ([0xdb, 0x6e, 0xa7, 0x18, 0x48, 0x75, 0xc0, 0xc2, 0x5d, 0x8d, 0x23, 0x88, 0xd7, 0x59, 0x7c, 0x60] ++
        [0x93, 0xae, 0x00, 0xc0, 0x9a, 0x65, 0xf1, 0xff, 0x29, 0xc7, 0xf2, 0x6d, 0x51, 0x00, 0x1a, 0x81]) }
      15)).toList =
    [0xdb, 0x6e, 0xa7, 0x18, 0x48, 0x75, 0xc0, 0xc2, 0x5d, 0x8d, 0x23, 0x88, 0xd7, 0x59, 0x7c, 0x60] ++
    [0x93, 0xae, 0x00, 0xc0, 0x9a, 0x65, 0xf1, 0xff, 0x29, 0xc7, 0xf2, 0x6d, 0x51, 0x00, 0x1a, 0x81] ++
    [0x6d, 0xba, 0x0e, 0xca, 0x1f, 0x22, 0x37, 0xcd, 0xd5, 0x84, 0xa8, 0xd2, 0xec, 0xe7, 0x55, 0x49] ++
    [0x46, 0x84, 0x13, 0x2f, 0x92, 0x3c, 0x45, 0xda, 0x3f, 0xa1, 0xe1, 0xbb, 0x99, 0x3a, 0xe5, 0xf5] := by
  decide +kernel

/-- B1v and B3v. -/
theorem test_blockize :
    blockize [[1, 2, 3], [4, 5], [], [6, 7, 8, 9]] 4 = [[1, 2, 3, 4], [5, 6, 7, 8], [9]] ∧
      blockize [[], []] 4 = [] := by decide

/-- P3 and P4. -/
theorem test_pad : (pad (List.replicate 63 0)).getLast? = some 0x01 ∧
    pad [0x01] = 0x01 :: List.replicate 63 0x3f := by decide

/-- U1v, U6v and U9v. -/
theorem test_finalRule_keeps_what_is_not_padding :
    finalRule (rep 0x40 64) = none ∧
      (finalRule (fit 64 (0x00 :: List.replicate 63 0x40))).map List.length = some 64 ∧
      (finalRule (rep 0xff 64)).map List.length = some 64 := by decide

/-- U2v and U7v. -/
theorem test_finalRule_strips_valid_padding_only :
    finalRule (fit 64 (0xaa :: List.replicate 63 0x3f)) = some [0xaa] ∧
      (finalRule (fit 64 (List.replicate 59 0x00 ++ [0x05, 0x05, 0x04, 0x05, 0x05]))).map List.length = some 64 := by
  decide

/-- `drain` issues the pops of R101: with seven bytes to pop, one of 4, one of 2 and one of 1. -/
theorem test_drain_pops :
    (drain { State.reset with olen := 7, obuf := fit 64 [1, 2, 3, 4, 5, 6, 7] }).2 = [1, 2, 3, 4, 5, 6, 7] ∧
      (drain { State.reset with olen := 7 }).1.resp = some 0 ∧ (drain State.reset).1 = { State.reset with resp := some 0 } := by
  decide

/-- The engine step of `FINAL` in `DEC` mode on a held block whose padding leaves one byte (U2v, R243). -/
theorem test_decryptor_final :
    let t := engineStep
      { decrypting with job := .final, heldv := true, held := fit 64 (0xaa :: List.replicate 63 0x3f) }
    statusWord t = 0x00000004 ∧ lenWord t = 0x01004020 ∧ t.unread = [0xaa] := by decide

/-! ### Witnesses: for every statement with hypotheses, states and operands that meet them -/

/-- A reset state that meets the invariants by evaluation of its counters and flags. -/
theorem inv_of_reset : State.reset.Inv := by
  constructor <;> simp [State.outputWithin, State.jobNeedsRoom, State.transformLoaded, State.streamJobOpen,
    State.streamLengths, State.bufferBounds, State.faultDiscards, State.modeFlags, State.markerFlags, State.reset]

theorem witness_DecodeEncodeRoundTrip : Instr.wf (.pushk .b2 0xFFFF) = true ∧ Instr.wf (.pushd .b1 0) = true := by decide

theorem witness_EncodeDecodeRoundTrip :
    decode 0x11800000000 = .ok (.pushd .b1 0) ∧ canonical 0x118000000FF ∧
      decode 0x118000000FF = .ok (.pushd .b1 0xFF) ∧ decode 0x01C00000000 = .ok (.pop .b1) ∧ canonical 0x01C00000000 := by
  unfold canonical
  decide

theorem witness_DecoderAgreesWithOpcodeMap :
    Descriptor.sz 0x18800000022 ≠ 3 ∧ decode 0x18800000022 = .ok .final ∧ rowSelects .final 0x18800000022 = true ∧
      rowSelects (.pushk .b1 0) 0x190DDDDDDDD = true := by decide

theorem witness_UndecodedDescriptorsAreClassified :
    Descriptor.sz 0x1D000000000 = 3 ∧
      (Descriptor.sz 0x11900000000 ≠ 3 ∧ Descriptor.isWrite 0x11900000000 = true ∧ ¬ wellAddressed 0x11900000000) ∧
      (Descriptor.sz 0x0A400000000 ≠ 3 ∧ Descriptor.isWrite 0x0A400000000 = false ∧ ¬ wellAddressed 0x0A400000000) ∧
      (Descriptor.sz 0x18800000023 = 2 ∧ Descriptor.off 0x18800000023 = 0x08 ∧
        Descriptor.data 0x18800000023 ∉ commandValues) := by
  unfold wellAddressed
  decide

theorem witness_StepRunsTheDecodedInstruction :
    { loaded with inputs := [.transaction 0x18800000020] }.inputs = .transaction 0x18800000020 :: [] ∧
      decode 0x18800000020 = .ok .encStart := by decide

theorem witness_StepAnswersUndecodedTransactions :
    decode 0x1D000000000 = .error .notATransaction ∧ decode 0x11900000000 = .error .illAddressedWrite ∧
      decode 0x0A400000000 = .error .illAddressedRead ∧ decode 0x18800000000 = .error .illegalCommand ∧
      (offer 0x18800000000 loaded).inputs = .transaction 0x18800000000 :: [] ∧
      (offer 0x18800000000 loaded).mode ≠ .fault ∧
      (offer 0x18800000000 faulted).inputs = .transaction 0x18800000000 :: [] ∧
      (offer 0x18800000000 faulted).mode = .fault := by decide

theorem witness_StepGivesTheEngineItsTurn :
    { keyed with inputs := [.engine] }.inputs = .engine :: [] ∧ State.reset.inputs = [] ∧ State.reset.job = .none := by
  decide

theorem witness_BothResetSourcesAreIdentical :
    { faulted with inputs := [.hardwareReset] }.inputs = .hardwareReset :: [] ∧
      (offer (encode .reset) faulted).inputs = .transaction (encode .reset) :: [] := by decide

theorem witness_AbortAbandonsTheStream : emitted.mode ≠ .fault ∧ faulted.mode = .fault := by decide

theorem witness_ClearCommandsForgetKeyOrIv :
    (loaded.job = .none ∧ loaded.mode = .idle) ∧
      decrypting.mode ≠ .fault ∧ ¬ (decrypting.job = .none ∧ decrypting.mode = .idle) := by decide

/-- A key and a whole operand are loaded. -/
def operandLoaded : State := { loaded with bufcnt := 64 }

theorem witness_TransformCommandsLatchTheirJob :
    operandLoaded.job = .none ∧ operandLoaded.mode = .idle ∧ operandLoaded.oavail = 0 ∧ operandLoaded.keylen = 32 ∧
      operandLoaded.bufcnt = 64 := by decide

theorem witness_StartCommandsOpenAStream :
    loaded.job = .none ∧ loaded.mode = .idle ∧ loaded.oavail = 0 ∧ loaded.keylen = 32 ∧ loaded.ivlen = 64 := by decide

theorem witness_FinalLatchesItsJob :
    (encrypting.job = .none ∧ encrypting.mode = .enc ∧ encrypting.oavail = 0) ∧
      (decrypting.job = .none ∧ decrypting.mode = .dec ∧ decrypting.bufcnt = 0 ∧ decrypting.oavail = 0) := by decide

theorem witness_FirstFailingCheckDecidesTheFault :
    (emitted.mode ≠ .fault ∧ ¬ (emitted.job = .none ∧ emitted.mode = .idle ∧ emitted.oavail = 0)) ∧
      (State.reset.job = .none ∧ State.reset.mode = .idle ∧ State.reset.oavail = 0 ∧ State.reset.keylen ≠ 32) ∧
      (keyed.job = .none ∧ keyed.mode = .idle ∧ keyed.oavail = 0 ∧ keyed.keylen = 32 ∧ keyed.ivlen ≠ 64 ∧
        keyed.bufcnt ≠ 64) ∧
      ¬ (loaded.job = .none ∧ (loaded.mode = .enc ∨ loaded.mode = .dec) ∧ loaded.oavail = 0) ∧
      ({ decrypting with bufcnt := 63 }.job = .none ∧ { decrypting with bufcnt := 63 }.mode = .dec ∧
        { decrypting with bufcnt := 63 }.oavail = 0 ∧ { decrypting with bufcnt := 63 }.bufcnt ≠ 0) := by decide

theorem witness_PushkStoresItsLanes : keyed.job = .none ∧ keyed.mode = .idle := by decide

theorem witness_PushivStoresItsLanes : loaded.job = .none ∧ loaded.mode = .idle := by decide

theorem witness_PushdStoresItsLanesAndLatchesBlock :
    (operandLoaded.job = .none ∧ operandLoaded.mode = .idle) ∧
      ({ emitted with bufcnt := 59 }.job = .none ∧ { emitted with bufcnt := 59 }.mode = .enc ∧
        { emitted with bufcnt := 59 }.bufcnt.toNat + Size.b4.bytes < 64) ∧
      ({ decrypting with bufcnt := 63 }.job = .none ∧ { decrypting with bufcnt := 63 }.mode = .dec ∧
        { decrypting with bufcnt := 63 }.oavail = 0 ∧
        64 ≤ { decrypting with bufcnt := 63 }.bufcnt.toNat + Size.b1.bytes) := by decide

theorem witness_PortTransactionsNotAdmittedFault :
    (encrypting.mode ≠ .fault ∧ ¬ (encrypting.job = .none ∧ encrypting.mode = .idle)) ∧
      (operandLoaded.mode ≠ .fault ∧ { operandLoaded with job := .fwd }.job ≠ .none) ∧
      ({ emitted with bufcnt := 63 }.mode = .enc ∧ 64 ≤ { emitted with bufcnt := 63 }.bufcnt.toNat + Size.b1.bytes ∧
        0 < { emitted with bufcnt := 63 }.oavail) ∧
      (loaded.mode ≠ .fault ∧ loaded.oavail < Size.b1.bytes) ∧
      { emitted with ord := 61 }.oavail < Size.b4.bytes := by decide

theorem witness_PopReturnsTheNextBytes :
    (emitted.mode ≠ .fault ∧ emitted.outputWithin ∧ Size.b4.bytes ≤ emitted.oavail) ∧
      ({ emitted with ord := 60 }.outputWithin ∧ Size.b4.bytes ≤ { emitted with ord := 60 }.oavail ∧
        { emitted with ord := 60 }.ord.toNat + Size.b4.bytes = { emitted with ord := 60 }.olen.toNat) := by
  unfold State.outputWithin
  decide

theorem witness_PopTakesTheFrontOfTheOutput :
    emitted.mode ≠ .fault ∧ emitted.outputWithin ∧ Size.b4.bytes ≤ emitted.oavail ∧
      ∃ t, exec (.pop .b4) emitted = .next t := by
  refine ⟨by decide, by unfold State.outputWithin; decide, by decide, nextState (exec (.pop .b4) emitted), next_of_completes (by decide)⟩

theorem witness_WidePushIsFourBytePushes : State.reset.job = .none ∧ State.reset.mode = .idle := by decide

theorem witness_TransformJobsEmitTheTransform :
    (∀ i (h : i < 64), (bufBlock operandLoaded)[i] = operandLoaded.buf[i]) ∧ operandLoaded.mode = .idle ∧
      { operandLoaded with job := .fwd }.job = .fwd ∧ { operandLoaded with job := .bwd }.job = .bwd :=
  ⟨fun i h => getElem_bufBlock operandLoaded i h, by decide, rfl, rfl⟩

/-- A whole block with a remainder of three bytes stands in `BUF` of an encryption, its job latched. -/
def encryptorBlock : State := { encrypting with bufcnt := 67, job := .block }

/-- The same of a decryption. -/
def decryptorBlock : State := { decrypting with bufcnt := 67, job := .block }

theorem witness_EncryptorBlockStep :
    (∀ i (h : i < 64), (bufBlock encryptorBlock)[i] = encryptorBlock.buf[i]) ∧ encryptorBlock.job = .block ∧
      encryptorBlock.mode = .enc :=
  ⟨fun i h => getElem_bufBlock encryptorBlock i h, rfl, rfl⟩

theorem witness_DecryptorBlockStep :
    (∀ i (h : i < 64), (bufBlock decryptorBlock)[i] = decryptorBlock.buf[i]) ∧ decryptorBlock.job = .block ∧
      decryptorBlock.mode = .dec :=
  ⟨fun i h => getElem_bufBlock decryptorBlock i h, rfl, rfl⟩

theorem witness_EncryptorFinalStep :
    (∃ b : Block, { encrypting with job := .final, bufcnt := 63 }.job = .final ∧
      (∀ i (h : i < 64), b[i] = if i < 63 then { encrypting with job := .final, bufcnt := 63 }.buf[i] else 0x01)) ∧
      ({ encrypting with job := .final, bufcnt := 1 }.mode = .enc ∧
        0 < { encrypting with job := .final, bufcnt := 1 }.bufcnt.toNat) ∧
      (∃ b : Block, { encrypting with job := .final }.bufcnt = 0 ∧ { encrypting with job := .final }.any = false ∧
        ∀ i (h : i < 64), b[i] = 0x40) ∧
      ({ encrypting with job := .final, any := true }.bufcnt = 0 ∧
        { encrypting with job := .final, any := true }.pfb = false) := by
  refine ⟨⟨Vector.ofFn fun i => if i.val < 63 then encrypting.buf[i.val] else 0x01, rfl, fun i h => ?_⟩, by decide,
    ⟨rep 0x40 64, by decide, by decide, fun i h => getElem_rep _ _ _⟩, by decide⟩
  rw [Vector.getElem_ofFn]

theorem witness_DecryptorFinalStep :
    ({ decrypting with job := .final }.job = .final ∧ decrypting.mode = .dec ∧ decrypting.heldv = false) ∧
      finalRule (rep 0x40 64) = none ∧
      ({ decrypting with job := .final, heldv := true, held := rep 0x01 64 }.heldv = true ∧
        finalRule (rep 0x01 64) = some (List.replicate 63 0x01)) := by decide

/-- A whole operand and the job `FWD`. -/
def transformPending : State := { operandLoaded with job := .fwd }

theorem inv_of_transformPending : transformPending.Inv := by
  constructor <;> simp [State.outputWithin, State.jobNeedsRoom, State.transformLoaded, State.streamJobOpen,
    State.streamLengths, State.bufferBounds, State.faultDiscards, State.modeFlags, State.markerFlags, State.oavail,
    transformPending, operandLoaded, loaded, keyed, State.reset]

/-- An encryption without a pushed byte, and the job `FINAL`. -/
def encryptorFinal : State := { encrypting with job := .final }

theorem inv_of_encryptorFinal : encryptorFinal.Inv := by
  constructor <;> simp [State.outputWithin, State.jobNeedsRoom, State.transformLoaded, State.streamJobOpen,
    State.streamLengths, State.bufferBounds, State.faultDiscards, State.modeFlags, State.markerFlags, State.oavail,
    State.markerNeeded, encryptorFinal, encrypting, loaded, keyed, State.reset]

theorem witness_EngineStepsEndTheirJob : transformPending.Inv ∧ transformPending.job ≠ .none :=
  ⟨inv_of_transformPending, by decide⟩

theorem witness_EncryptorFinalEmitsOneBlock :
    encryptorFinal.Inv ∧ encryptorFinal.mode = .enc ∧ encryptorFinal.job = .final :=
  ⟨inv_of_encryptorFinal, rfl, rfl⟩

theorem witness_FaultEntryEffect : emitted.mode ≠ .fault ∧ faulted.mode = .fault := by decide

theorem witness_FaultModeIgnoresInstructions : faulted.mode = .fault ∧ Instr.pop .b4 ≠ .reset := by decide

theorem witness_FaultModeIsLeftOnlyByReset :
    (faulted.mode = .fault ∧ ∃ t, step faulted = .next t) ∧
      (offer (encode .reset) faulted).mode = .fault ∧ ∃ t, step (offer (encode .reset) faulted) = .next t :=
  ⟨⟨rfl, nextState (step faulted), next_of_completes (by decide)⟩, rfl, nextState (step (offer (encode .reset) faulted)), next_of_completes (by decide)⟩

theorem witness_FaultsArePrecise :
    loaded.mode ≠ .fault ∧ ∃ t, exec .final loaded = .next t ∧ t.mode = .fault :=
  ⟨by decide, nextState (exec .final loaded), next_of_completes (by decide), by decide⟩

theorem witness_BusyAdmitsOnlyReadsResetAbort :
    transformPending.Inv ∧ transformPending.job ≠ .none ∧ (∃ t, exec .rdlen transformPending = .next t) ∧
      ∃ t, exec .final transformPending = .next t :=
  ⟨inv_of_transformPending, by decide, ⟨nextState (exec .rdlen transformPending), next_of_completes (by decide)⟩,
    nextState (exec .final transformPending), next_of_completes (by decide)⟩

theorem witness_StepKeepsTheInvariants : State.reset.Inv ∧ ∃ t, step State.reset = .next t :=
  ⟨inv_of_reset, nextState (step State.reset), next_of_completes (by decide)⟩

theorem witness_KeyAndIvAreConstantDuringAnOperation :
    (encrypting.mode ≠ .idle ∧ ∃ t, step (offer (encode (.pushd .b1 0xA5)) encrypting) = .next t) ∧
      transformPending.job ≠ .none :=
  ⟨⟨by decide, nextState (step (offer (encode (.pushd .b1 0xA5)) encrypting)), next_of_completes (by decide)⟩, by decide⟩

theorem witness_EventsTakeEffectInOrder : ∃ t, step (offer (encode .rdid) State.reset) = .next t :=
  ⟨nextState (step (offer (encode .rdid) State.reset)), next_of_completes (by decide)⟩

/-- The witnesses are an instruction, and a read of the write-only `KEYIN`, which is none. -/
theorem witness_TransactionsDiscloseNoHiddenByte :
    loaded.hideSecrets = { loaded with key := rep 0xFF 32 }.hideSecrets ∧ loaded ≠ { loaded with key := rep 0xFF 32 } ∧
      (∃ t, exec .rdstatus loaded = .next t) ∧ ∃ t, execTransaction 0x09000000000 loaded = .next t :=
  ⟨rfl, by decide, ⟨nextState (exec .rdstatus loaded), next_of_completes (by decide)⟩,
    nextState (execTransaction 0x09000000000 loaded), next_of_completes (by decide)⟩

theorem witness_ShaPaddingFillsWholeBlocks : ([0x61, 0x62, 0x63] : List Byte).length < 2 ^ 61 := by decide

theorem witness_WordOperationsRotateAndPack : 0 < 31 ∧ 31 < 32 := by decide

theorem witness_CheckedFunctionsNameTheWrongLength :
    (List.replicate 31 (0 : Byte)).length ≠ 32 ∧
      ((List.replicate 32 (0 : Byte)).length = 32 ∧ (List.replicate 63 (0 : Byte)).length ≠ 64) ∧
      ∃ (k : Key) (b : Block), List.replicate 32 0 = k.toList ∧ List.replicate 64 0 = b.toList :=
  ⟨by decide, by decide, rep 0 32, rep 0 64, by decide, by decide⟩

theorem witness_BlockizerProperties :
    0 < 4 ∧ [[1], [2, 3]].flatten = ([[1, 2], [], [3]] : List (List Byte)).flatten := by decide

theorem witness_ForwardIsABijection : rep 0 64 ≠ rep 1 64 := by decide

theorem witness_DamageReachesTwoBlocksOnly : rep 0x00 64 ≠ rep 0x80 64 := by decide

theorem witness_EncryptIsIvSensitive : rep 0 64 ≠ rep 1 64 := by decide

theorem witness_FinalRuleCases :
    (∀ i (_ : i < 64), (rep 0x40 64)[i] = 0x40) ∧
      (∀ i (_ : i < 64), 64 - 63 ≤ i → (rep 0x3f 64)[i].toNat = 63) ∧
      ¬ (∀ i (_ : i < 64), (rep 0x00 64)[i] = 0x40) ∧
      ¬ ∃ v, 1 ≤ v ∧ v < 64 ∧ ∀ i (_ : i < 64), 64 - v ≤ i → (rep 0x00 64)[i].toNat = v := by
  refine ⟨fun i h => getElem_rep _ _ _, fun i h _ => by rw [getElem_rep]; rfl, fun h => ?_, fun ⟨v, h1, h2, h⟩ => ?_⟩
  · have := h 0 (by omega)
    rw [getElem_rep] at this
    exact absurd this (by decide)
  · have := h 63 (by omega) (by omega)
    rw [getElem_rep] at this
    simp at this
    omega

/-- A stream that has just been opened, with no job and at most a block of output to pop, meets the invariants. -/
theorem inv_of_open (s : State) (hm : s.mode = .enc ∨ s.mode = .dec) (hj : s.job = .none) (hk : s.keylen = 32)
    (hi : s.ivlen = 64) (hb : s.bufcnt = 0) (hl : s.olen.toNat ≤ 64) (hr : s.ord = 0) (hv : s.heldv = false)
    (hp : s.pfb = false) (ha : s.any = false) (he : s.err = none) : s.Inv := by
  rcases hm with hm | hm <;>
    constructor <;> simp [State.outputWithin, State.jobNeedsRoom, State.transformLoaded, State.streamJobOpen,
      State.streamLengths, State.bufferBounds, State.faultDiscards, State.modeFlags, State.markerFlags,
      hm, hj, hk, hi, hb, hl, hr, hv, hp, ha, he]

/-- An encryption of `bufBytes s` that has emitted nothing. -/
theorem encStream_of_nothing_emitted (s : State) (hm : s.mode = .enc) (hc : s.chain = s.iv) (hp : s.pfb = false)
    (ha : s.any = false) : EncStream s.key s.iv (bufBytes s) [] s where
  isEnc := hm
  keyIs := rfl
  taken := ⟨[], rfl, rfl⟩
  chainIs := hc
  flagsAre := ⟨by rw [hp]; rfl, by rw [ha]; rfl⟩

theorem witness_EncryptionComputesEncrypt :
    (∃ t, exec .encStart loaded = .next t ∧ t.mode = .enc) ∧
      (encryptorFinal.Inv ∧ EncStream encryptorFinal.key encryptorFinal.iv (bufBytes encryptorFinal) [] encryptorFinal ∧
        encryptorFinal.job = .final) ∧
      (encryptorBlock.Inv ∧ EncStream encryptorBlock.key encryptorBlock.iv (bufBytes encryptorBlock) [] encryptorBlock ∧
        encryptorBlock.job = .block) ∧
      (encrypting.Inv ∧ EncStream encrypting.key encrypting.iv (bufBytes encrypting) [] encrypting ∧
        (∃ t, exec (.pushd .b4 0) encrypting = .next t ∧ t.mode ≠ .fault) ∧
        (∃ t, exec .final encrypting = .next t ∧ t.mode ≠ .fault) ∧ ∃ t, exec .rdlen encrypting = .next t) ∧
      ({ encrypting with olen := 4 }.Inv ∧
        EncStream encrypting.key encrypting.iv (bufBytes encrypting) [] { encrypting with olen := 4 } ∧
        ∃ t, exec (.pop .b4) { encrypting with olen := 4 } = .next t ∧ t.mode ≠ .fault) := by
  refine ⟨⟨nextState (exec .encStart loaded), next_of_completes (by decide), by decide⟩,
    ⟨inv_of_encryptorFinal, encStream_of_nothing_emitted _ rfl rfl rfl rfl, rfl⟩,
    ⟨?_, encStream_of_nothing_emitted _ rfl rfl rfl rfl, rfl⟩,
    ⟨inv_of_open _ (.inl rfl) rfl rfl rfl rfl (by decide) rfl rfl rfl rfl rfl,
      encStream_of_nothing_emitted _ rfl rfl rfl rfl,
      ⟨nextState (exec (.pushd .b4 0) encrypting), next_of_completes (by decide), by decide⟩,
      ⟨nextState (exec .final encrypting), next_of_completes (by decide), by decide⟩,
      nextState (exec .rdlen encrypting), next_of_completes (by decide)⟩,
    inv_of_open _ (.inl rfl) rfl rfl rfl rfl (by decide) rfl rfl rfl rfl rfl,
    encStream_of_nothing_emitted { encrypting with olen := 4 } rfl rfl rfl rfl,
    nextState (exec (.pop .b4) { encrypting with olen := 4 }), next_of_completes (by decide), by decide⟩
  constructor <;> simp [State.outputWithin, State.jobNeedsRoom, State.transformLoaded, State.streamJobOpen,
    State.streamLengths, State.bufferBounds, State.faultDiscards, State.modeFlags, State.markerFlags, State.oavail,
    encryptorBlock, encrypting, loaded, keyed, State.reset]

/-- A decryption of one zero block, the plaintext block held. -/
def holding : State :=
  { decrypting with chain := rep 0 64, heldv := true, held := cipherBlock (rep 0 32) (rep 0 64) (rep 0 64) }

theorem decStream_of_no_block (s : State) (hm : s.mode = .dec) (hc : s.chain = s.iv) (hv : s.heldv = false) :
    DecStream s.key s.iv (bufBytes s) [] s where
  isDec := hm
  keyIs := rfl
  taken := ⟨[], rfl, hc, hv, rfl, fun h => by rw [hv] at h; exact nomatch h⟩

theorem decStream_of_one_block (s : State) (hm : s.mode = .dec) (hc : s.chain = rep 0 64) (hv : s.heldv = true)
    (hh : s.held = cipherBlock s.key s.iv (rep 0 64)) :
    DecStream s.key s.iv (flatBlocks [rep 0 64] ++ bufBytes s) [] s where
  isDec := hm
  keyIs := rfl
  taken := ⟨[rep 0 64], rfl, hc, hv, rfl, fun _ => by rw [hh]; rfl⟩

theorem inv_of_dec_job (s : State) (ho : s.olen = 0) (hr : s.ord = 0) (hm : s.mode = .dec) (hk : s.keylen = 32)
    (hi : s.ivlen = 64) (hp : s.pfb = false) (ha : s.any = false) (he : s.err = none)
    (hj : s.job = .final ∧ s.bufcnt = 0 ∨ s.job = .block ∧ s.bufcnt = 64) : s.Inv := by
  rcases hj with ⟨hj, hb⟩ | ⟨hj, hb⟩ <;>
    constructor <;> simp [State.outputWithin, State.jobNeedsRoom, State.transformLoaded, State.streamJobOpen,
      State.streamLengths, State.bufferBounds, State.faultDiscards, State.modeFlags, State.markerFlags, State.oavail,
      ho, hr, hm, hk, hi, hp, ha, he, hj, hb]

theorem witness_DecryptionComputesDecrypt :
    (∃ t, exec .decStart loaded = .next t ∧ t.mode = .dec) ∧
      ({ holding with job := .block, bufcnt := 64 }.Inv ∧
        (∃ c, DecStream holding.key holding.iv c [] { holding with job := .block, bufcnt := 64 }) ∧
        { holding with job := .block, bufcnt := 64 }.heldv = true) ∧
      ({ holding with job := .final }.Inv ∧
        ∃ c, DecStream holding.key holding.iv c [] { holding with job := .final }) ∧
      ({ decrypting with job := .block, bufcnt := 64 }.Inv ∧
        ∃ c, DecStream decrypting.key decrypting.iv c [] { decrypting with job := .block, bufcnt := 64 }) ∧
      (decrypting.Inv ∧ (∃ c, DecStream decrypting.key decrypting.iv c [] decrypting) ∧
        (∃ t, exec (.pushd .b4 0) decrypting = .next t ∧ t.mode ≠ .fault) ∧
        (∃ t, exec .final decrypting = .next t ∧ t.mode ≠ .fault) ∧ ∃ t, exec .rdlen decrypting = .next t) ∧
      ({ decrypting with olen := 4 }.Inv ∧
        (∃ c, DecStream decrypting.key decrypting.iv c [] { decrypting with olen := 4 }) ∧
        ∃ t, exec (.pop .b4) { decrypting with olen := 4 } = .next t ∧ t.mode ≠ .fault) :=
  ⟨⟨nextState (exec .decStart loaded), next_of_completes (by decide), by decide⟩,
    ⟨inv_of_dec_job _ rfl rfl rfl rfl rfl rfl rfl rfl (.inr ⟨rfl, rfl⟩),
      ⟨_, decStream_of_one_block { holding with job := .block, bufcnt := 64 } rfl rfl rfl rfl⟩, rfl⟩,
    ⟨inv_of_dec_job _ rfl rfl rfl rfl rfl rfl rfl rfl (.inl ⟨rfl, rfl⟩),
      ⟨_, decStream_of_one_block { holding with job := .final } rfl rfl rfl rfl⟩⟩,
    ⟨inv_of_dec_job _ rfl rfl rfl rfl rfl rfl rfl rfl (.inr ⟨rfl, rfl⟩),
      ⟨_, decStream_of_no_block { decrypting with job := .block, bufcnt := 64 } rfl rfl rfl⟩⟩,
    ⟨inv_of_open _ (.inr rfl) rfl rfl rfl rfl (by decide) rfl rfl rfl rfl rfl,
      ⟨_, decStream_of_no_block decrypting rfl rfl rfl⟩,
      ⟨nextState (exec (.pushd .b4 0) decrypting), next_of_completes (by decide), by decide⟩,
      ⟨nextState (exec .final decrypting), next_of_completes (by decide), by decide⟩,
      nextState (exec .rdlen decrypting), next_of_completes (by decide)⟩,
    inv_of_open _ (.inr rfl) rfl rfl rfl rfl (by decide) rfl rfl rfl rfl rfl,
    ⟨_, decStream_of_no_block { decrypting with olen := 4 } rfl rfl rfl⟩,
    nextState (exec (.pop .b4) { decrypting with olen := 4 }), next_of_completes (by decide), by decide⟩

end Sys2Proof.Tests
end

section
/-! PROOFS. The events of a run, what an instruction can do, the checked functions: the statements of the scope. -/

namespace Sys2Proof.Machine

/-! ### The event of a step -/

theorem takeEvent_of_tail {s : State} {rest : List Event} (h : s.inputs.tail = rest) :
    takeEvent s = { s with inputs := rest } := by
  rw [takeEvent, h]

theorem nextEvent_cons {s : State} {e : Event} {rest : List Event} (h : s.inputs = e :: rest) : nextEvent s = e := by
  rw [nextEvent, h]

/-- With no event left the engine agent has the turn (R347, log 2). -/
theorem nextEvent_nil {s : State} (h : s.inputs = []) : nextEvent s = .engine := by
  rw [nextEvent, h]

theorem step_transaction {s : State} {d : Descriptor} (h : nextEvent s = .transaction d) :
    step s = execTransaction d (takeEvent s) := by
  rw [step, h]

theorem step_engine {s : State} (h : nextEvent s = .engine) :
    step s = reply none (engineStep (takeEvent s)) := by
  rw [step, h]

theorem step_hardwareReset {s : State} (h : nextEvent s = .hardwareReset) :
    step s = reply none (softReset (takeEvent s)) := by
  rw [step, h]

theorem execTransaction_decoded {d : Descriptor} {i : Instr} (h : decode d = .ok i) (s : State) :
    execTransaction d s = exec i s := by
  rw [execTransaction, h]

theorem execTransaction_undecoded {d : Descriptor} {e : DecodeError} (h : decode d = .error e) (s : State) :
    execTransaction d s = execUndecoded e s := by
  rw [execTransaction, h]

/-! ### What an instruction can do -/

/-- The states in which the checks of an instruction all pass (R309). -/
def Admits (i : Instr) (s : State) : Prop :=
  match i with
  | .reset | .rdid | .rdparam | .rdstatus | .rdlen => True
  | .abort => s.mode ≠ .fault
  | .clrkey | .clriv | .pushk _ _ | .pushiv _ _ => s.job = .none ∧ s.mode = .idle
  | .fwd | .bwd => (s.job = .none ∧ s.mode = .idle ∧ s.oavail = 0) ∧ s.keylen = 32 ∧ s.bufcnt = 64
  | .encStart | .decStart => (s.job = .none ∧ s.mode = .idle ∧ s.oavail = 0) ∧ s.keylen = 32 ∧ s.ivlen = 64
  | .final => (s.job = .none ∧ s.streaming = true ∧ s.oavail = 0) ∧ (s.mode = .dec → s.bufcnt = 0)
  | .pushd n _ =>
    s.mode ≠ .fault ∧ s.job = .none ∧ (s.streaming = true → s.bufcnt.toNat + n.bytes < 64 ∨ s.oavail = 0)
  | .pop n => s.mode ≠ .fault ∧ n.bytes ≤ s.oavail

/-- What an admitted instruction does to the state, but for the value it returns. -/
def admittedEffect (i : Instr) (s : State) : State :=
  match i with
  | .reset => softReset s
  | .abort => abandonStream s
  | .clrkey => { s with key := rep 0x00 32, keylen := 0 }
  | .clriv => { s with iv := rep 0x00 64, ivlen := 0 }
  | .fwd => { s with job := .fwd }
  | .bwd => { s with job := .bwd }
  | .encStart => startState .enc s
  | .decStart => startState .dec s
  | .final => { s with job := .final }
  | .pushk n v => (lanes n v).foldl pushKeyByte s
  | .pushiv n v => (lanes n v).foldl pushIvByte s
  | .pushd n v => latchBlock ((lanes n v).foldl pushBufByte s)
  | .pop n => advanceOutput n s
  | .rdid | .rdparam | .rdstatus | .rdlen => s

/-- What an admitted instruction returns to the host. -/
def admittedReply (i : Instr) (s : State) : Option Word32 :=
  match i with
  | .pop n => some (fromLanes (popBytes n s))
  | .rdid => some idWord
  | .rdparam => some paramWord
  | .rdstatus => some (statusWord s)
  | .rdlen => some (lenWord s)
  | _ => none

/-- What an instruction returns that faults or is ignored: 0 for the one read among them, the `POP` (R313). -/
def refusedReply : Instr → Option Word32
  | .pop _ => some 0
  | _ => none

/-- The three ways an instruction can end: it is admitted and has its effect, it faults outside `FAULT` mode with fault
entry as its whole effect (R300), or it is ignored in `FAULT` mode (R312). -/
inductive Ending (i : Instr) (s : State) : State → Prop
  | admitted (h : Admits i s) : Ending i s { admittedEffect i s with resp := admittedReply i s }
  | faulted (h : s.mode ≠ .fault) (code : FaultCode) : Ending i s { raiseFault code s with resp := refusedReply i }
  | ignored (h : s.mode = .fault) : Ending i s { s with resp := refusedReply i }

/-- A result whose next state, if it is one, is an ending of the instruction. -/
def EndsAs (i : Instr) (s : State) (k : Result) : Prop := ∀ t, k = .next t → Ending i s t

theorem endsAs_reply {i : Instr} {s : State} (h : Admits i s) :
    EndsAs i s (reply (admittedReply i s) (admittedEffect i s)) := by
  intro t ht
  obtain rfl := reply_eq_next.mp ht
  exact .admitted h

theorem endsAs_require {i : Instr} {s : State} {c : Prop} [Decidable c] {code : FaultCode} {k : Result}
    (hm : s.mode ≠ .fault) (h : c → EndsAs i s k) : EndsAs i s (require c code (refusedReply i) s k) := by
  intro t ht
  rcases require_cases ht with ⟨hc, hk⟩ | ⟨-, rfl⟩
  · exact h hc t hk
  · exact .faulted hm code

theorem endsAs_unlessFaulted {i : Instr} {s : State} {k : Result} (h : s.mode ≠ .fault → EndsAs i s k) :
    EndsAs i s (unlessFaulted (refusedReply i) s k) := by
  intro t ht
  rcases unlessFaulted_cases ht with ⟨hm, hk⟩ | ⟨hm, rfl⟩
  · exact h hm t hk
  · exact .ignored hm

/-- The checks of every instruction, in their order, lead to one of its endings. -/
theorem exec_endsAs (i : Instr) (s : State) : EndsAs i s (exec i s) := by
  cases i with
  | reset | rdid | rdparam | rdstatus | rdlen => exact endsAs_reply trivial
  | abort => exact endsAs_unlessFaulted fun hm => endsAs_reply hm
  | clrkey | clriv | pushk n v | pushiv n v =>
    exact endsAs_unlessFaulted fun hm => endsAs_require hm fun hidle => endsAs_reply hidle
  | fwd | bwd | encStart | decStart =>
    exact endsAs_unlessFaulted fun hm => endsAs_require hm fun hidle => endsAs_require hm fun hkey =>
      endsAs_require hm fun hlen => endsAs_reply ⟨hidle, hkey, hlen⟩
  | final =>
    exact endsAs_unlessFaulted fun hm => endsAs_require hm fun hopen => endsAs_require hm fun hrest =>
      endsAs_reply ⟨hopen, hrest⟩
  | pushd n v =>
    exact endsAs_unlessFaulted fun hm => endsAs_require hm fun hjob => endsAs_require hm fun hroom =>
      endsAs_reply ⟨hm, hjob, hroom⟩
  | pop n => exact endsAs_unlessFaulted fun hm => endsAs_require hm fun havail => endsAs_reply ⟨hm, havail⟩

/-- All that an instruction can do. -/
theorem exec_cases {i : Instr} {s t : State} (h : exec i s = .next t) : Ending i s t := exec_endsAs i s t h

/-- A fault that `FAULT` mode does not take: fault entry outside `FAULT` mode, ignored inside it (R312). -/
theorem unlessFaulted_raiseFault_cases {r : Option Word32} {code : FaultCode} {s t : State}
    (h : unlessFaulted r s (reply r (raiseFault code s)) = .next t) :
    (s.mode ≠ .fault ∧ t = { raiseFault code s with resp := r }) ∨ (s.mode = .fault ∧ t = { s with resp := r }) :=
  (unlessFaulted_cases h).imp_left fun ⟨hm, hr⟩ => ⟨hm, reply_eq_next.mp hr⟩

/-- All that a transaction that is no instruction can do (R306, R307, R312, R313). -/
theorem execUndecoded_cases {e : DecodeError} {s t : State} (h : execUndecoded e s = .next t) :
    ∃ code r, (s.mode ≠ .fault ∧ t = { raiseFault code s with resp := r }) ∨
      (s.mode = .fault ∧ t = { s with resp := r }) := by
  cases e with
  | notATransaction => exact nomatch h
  | illAddressedWrite | illAddressedRead | illegalCommand => exact ⟨_, _, unlessFaulted_raiseFault_cases h⟩

/-! ### What an admitted instruction leaves unchanged -/

@[simp] theorem latchBlock_inputs (s : State) : (latchBlock s).inputs = s.inputs := by
  simp only [latchBlock, apply_ite State.inputs, ite_self]

@[simp] theorem latchBlock_mode (s : State) : (latchBlock s).mode = s.mode := by
  simp only [latchBlock, apply_ite State.mode, ite_self]

@[simp] theorem advanceOutput_inputs (n : Size) (s : State) : (advanceOutput n s).inputs = s.inputs := by
  rcases advanceOutput_cases n s with ⟨-, h⟩ | ⟨-, h⟩ <;> rw [h]

@[simp] theorem advanceOutput_mode (n : Size) (s : State) : (advanceOutput n s).mode = s.mode := by
  rcases advanceOutput_cases n s with ⟨-, h⟩ | ⟨-, h⟩ <;> rw [h]

/-- No instruction touches the events still to come (log 1). -/
theorem admittedEffect_inputs (i : Instr) (s : State) : (admittedEffect i s).inputs = s.inputs := by
  cases i with
  | pushk n v => rw [admittedEffect, foldl_pushKeyByte]
  | pushiv n v => rw [admittedEffect, foldl_pushIvByte]
  | pushd n v => rw [admittedEffect, latchBlock_inputs, foldl_pushBufByte]
  | pop n => exact advanceOutput_inputs n s
  | _ => rfl

/-- Only a fault enters `FAULT` mode. -/
theorem admittedEffect_mode_ne_fault (i : Instr) {s : State} (h : s.mode ≠ .fault) :
    (admittedEffect i s).mode ≠ .fault := by
  cases i with
  | reset | abort | encStart | decStart => exact nofun
  | pushk n v => rwa [admittedEffect, foldl_pushKeyByte]
  | pushiv n v => rwa [admittedEffect, foldl_pushIvByte]
  | pushd n v => rwa [admittedEffect, latchBlock_mode, foldl_pushBufByte]
  | pop n => rwa [admittedEffect, advanceOutput_mode]
  | _ => exact h

theorem refusedReply_cases (i : Instr) : refusedReply i = none ∨ refusedReply i = some 0 := by
  cases i with
  | pop n => exact .inr rfl
  | _ => exact .inl rfl

/-! ### The engine agent -/

/-- Without a job the engine's turn changes nothing (R279, R323). -/
theorem engineStep_of_no_job {s : State} (h : s.job = .none) : engineStep s = s := by
  simp only [engineStep, h]

theorem encTail_inputs (s : State) : (encTail s).inputs = s.inputs := by
  simp only [encTail, apply_ite State.inputs, chainStep_inputs, ite_self]

theorem decTail_inputs (s : State) : (decTail s).inputs = s.inputs := by
  unfold decTail
  split
  · split
    · rfl
    · exact emitBytes_inputs _ s
  · rfl

/-- No engine step touches the events still to come (log 1). -/
theorem engineStep_inputs (s : State) : (engineStep s).inputs = s.inputs := by
  unfold engineStep
  split
  · simp only [jobFwd, emitBlock_inputs]
  · simp only [jobBwd, emitBlock_inputs]
  · simp only [jobEncBlock, shiftBuf_inputs, chainStep_inputs]
  · simp only [jobDecBlock, shiftBuf_inputs, apply_ite State.inputs, emitBlock_inputs, ite_self]
  · simp only [jobEncFinal, encTail_inputs]
  · simp only [jobDecFinal, decTail_inputs]
  · rfl

/-! ### The events are kept -/

theorem reply_inputs {r : Option Word32} {s t : State} (h : reply r s = .next t) : t.inputs = s.inputs := by
  rw [reply_eq_next.mp h]

theorem exec_inputs {i : Instr} {s t : State} (h : exec i s = .next t) : t.inputs = s.inputs := by
  cases exec_cases h with
  | admitted => exact admittedEffect_inputs i s
  | faulted _ code => exact raiseFault_inputs code s
  | ignored => rfl

theorem execUndecoded_inputs {e : DecodeError} {s t : State} (h : execUndecoded e s = .next t) :
    t.inputs = s.inputs := by
  obtain ⟨code, r, ⟨-, rfl⟩ | ⟨-, rfl⟩⟩ := execUndecoded_cases h
  · exact raiseFault_inputs code s
  · rfl

theorem execTransaction_inputs {d : Descriptor} {s t : State} (h : execTransaction d s = .next t) :
    t.inputs = s.inputs := by
  cases hd : decode d with
  | ok i => exact exec_inputs (execTransaction_decoded hd s ▸ h)
  | error e => exact execUndecoded_inputs (execTransaction_undecoded hd s ▸ h)

/-! ### The checked functions -/

theorem checkLength_wrong {n : Nat} {code : FaultCode} {s : List Byte} (h : s.length ≠ n) :
    checkLength n code s = .error code := if_neg h

theorem checkLength_right {n : Nat} {code : FaultCode} {s : List Byte} (h : s.length = n) :
    checkLength n code s = .ok (fit n s) := if_pos h

@[simp] theorem checkLength_toList {n : Nat} {code : FaultCode} (a : Bytes n) :
    checkLength n code a.toList = .ok a := by
  rw [checkLength_right a.length_toList, fit_toList]

theorem deriveChecked_wrong_key {key : List Byte} (h : key.length ≠ 32) (i : Fin 16) :
    deriveChecked key i = .error .invalidKeyLength := by
  rw [deriveChecked, checkLength_wrong h]

theorem deriveChecked_toList (k : Key) (i : Fin 16) : deriveChecked k.toList i = .ok (derive k i) := by
  rw [deriveChecked, checkLength_toList]

theorem transformChecked_wrong_key (f : Key → Block → Block) {key : List Byte} (block : List Byte)
    (h : key.length ≠ 32) : transformChecked f key block = .error .invalidKeyLength := by
  rw [transformChecked, checkLength_wrong h]

theorem transformChecked_wrong_block (f : Key → Block → Block) {key block : List Byte} (hk : key.length = 32)
    (hb : block.length ≠ 64) : transformChecked f key block = .error .invalidBlockLength := by
  rw [transformChecked, checkLength_right hk, checkLength_wrong hb]

theorem transformChecked_toList (f : Key → Block → Block) (k : Key) (b : Block) :
    transformChecked f k.toList b.toList = .ok (f k b) := by
  rw [transformChecked, checkLength_toList, checkLength_toList]

theorem streamChecked_wrong_key {α : Type} (f : Key → Block → α) {key : List Byte} (iv : List Byte)
    (h : key.length ≠ 32) : streamChecked f key iv = .error .invalidKeyLength := by
  rw [streamChecked, checkLength_wrong h]

theorem streamChecked_wrong_iv {α : Type} (f : Key → Block → α) {key iv : List Byte} (hk : key.length = 32)
    (hi : iv.length ≠ 64) : streamChecked f key iv = .error .invalidIVLength := by
  rw [streamChecked, checkLength_right hk, checkLength_wrong hi]

theorem streamChecked_toList {α : Type} (f : Key → Block → α) (k : Key) (v : Block) :
    streamChecked f k.toList v.toList = .ok (f k v) := by
  rw [streamChecked, checkLength_toList, checkLength_toList]

/-! ### The statements -/

/-- Settles O38: of the three endings of an instruction only the fault enters `FAULT` mode. -/
theorem faultsArePrecise : Obligations.FaultsArePrecise := by
  intro i s t hs ht hfault
  cases exec_cases ht with
  | admitted => exact absurd hfault (admittedEffect_mode_ne_fault i hs)
  | faulted _ code => exact ⟨code, rfl, refusedReply_cases i⟩
  | ignored hm => exact absurd hm hs

/-- Settles O43: the step takes its event from the list, and whatever the event does keeps the rest. -/
theorem eventsTakeEffectInOrder : Obligations.EventsTakeEffectInOrder := by
  intro s t ht
  cases he : nextEvent s with
  | transaction d => exact execTransaction_inputs (step_transaction he ▸ ht)
  | engine => exact (reply_inputs (step_engine he ▸ ht)).trans (engineStep_inputs _)
  | hardwareReset => exact reply_inputs (step_hardwareReset he ▸ ht)

/-- Settles O51: the key is checked first, then the other operand. -/
theorem checkedFunctionsNameTheWrongLength : Obligations.CheckedFunctionsNameTheWrongLength := by
  intro key block chunks blocks
  refine ⟨fun hk => ?_, fun hk hb => ?_, ?_⟩
  · exact ⟨transformChecked_wrong_key _ _ hk, transformChecked_wrong_key _ _ hk, streamChecked_wrong_key _ _ hk,
      streamChecked_wrong_key _ _ hk, deriveChecked_wrong_key hk⟩
  · exact ⟨transformChecked_wrong_block _ hk hb, transformChecked_wrong_block _ hk hb, streamChecked_wrong_iv _ hk hb,
      streamChecked_wrong_iv _ hk hb⟩
  · rintro k b rfl rfl
    exact ⟨transformChecked_toList _ k b, transformChecked_toList _ k b, streamChecked_toList _ k b,
      streamChecked_toList _ k b, deriveChecked_toList k⟩

/-- Settles O6: the event is the transaction, its descriptor decodes, and the event is taken from the list. -/
theorem stepRunsTheDecodedInstruction : Obligations.StepRunsTheDecodedInstruction := by
  intro s d rest i hs hd
  have htail : s.inputs.tail = rest := by rw [hs, List.tail_cons]
  rw [step_transaction (nextEvent_cons hs), execTransaction_decoded hd, takeEvent_of_tail htail]

/-- Settles O8: scheduled or at the end of the list, the event is the engine's turn. -/
theorem stepGivesTheEngineItsTurn : Obligations.StepGivesTheEngineItsTurn := by
  intro s rest hs
  have hturn : nextEvent s = .engine ∧ s.inputs.tail = rest := by
    rcases hs with hs | ⟨hs, rfl⟩
    · exact ⟨nextEvent_cons hs, by rw [hs, List.tail_cons]⟩
    · exact ⟨nextEvent_nil hs, by rw [hs, List.tail_nil]⟩
  obtain ⟨hengine, htail⟩ := hturn
  have hstep : step s = reply none (engineStep { s with inputs := rest }) := by
    rw [step_engine hengine, takeEvent_of_tail htail]
  refine ⟨hstep, fun hjob => ?_⟩
  rw [hstep, engineStep_of_no_job (s := { s with inputs := rest }) hjob, reply]

end Sys2Proof.Machine
end

section
/-! PROOFS. The start commands and what a pending job admits; the engine agent's turn: which pairs it dispatches,
what it leaves unchanged, and what the job `FINAL` emits. -/

namespace Sys2Proof.Machine

/-! ### An admitted instruction completes -/

/-- An admitted instruction completes: no check stops it, and `FAULT` mode does not ignore it. -/
theorem exec_of_admits {i : Instr} {s : State} (h : Admits i s) :
    exec i s = reply (admittedReply i s) (admittedEffect i s) := by
  have hlive : s.mode = .idle → s.mode ≠ .fault := fun hm => by rw [hm]; exact nofun
  cases i with
  | reset | rdid | rdparam | rdstatus | rdlen => rfl
  | abort => exact unlessFaulted_live h
  | clrkey | clriv | pushk n v | pushiv n v => exact (unlessFaulted_live (hlive h.2)).trans (require_holds h)
  | fwd | bwd | encStart | decStart =>
    obtain ⟨hidle, hkey, hlen⟩ := h
    exact (unlessFaulted_live (hlive hidle.2.1)).trans <| (require_holds hidle).trans <|
      (require_holds hkey).trans (require_holds hlen)
  | final =>
    obtain ⟨hopen, hrest⟩ := h
    have hm : s.mode ≠ .fault := fun hf => by simp [State.streaming, hf] at hopen
    exact (unlessFaulted_live hm).trans <| (require_holds hopen).trans (require_holds hrest)
  | pushd n v =>
    obtain ⟨hm, hjob, hroom⟩ := h
    exact (unlessFaulted_live hm).trans <| (require_holds hjob).trans (require_holds hroom)
  | pop n =>
    obtain ⟨hm, havail⟩ := h
    exact (unlessFaulted_live hm).trans (require_holds havail)

/-- While a job is pending there is no output to pop and every other check wants the engine idle, so only the register
reads, `RESET` and `ABORT` are admitted (R303). -/
theorem admits_iff_of_busy {i : Instr} {s : State} (h : s.Inv) (hjob : s.job ≠ .none) :
    Admits i s ↔ i ∈ [Instr.rdid, .rdparam, .rdstatus, .rdlen, .reset, .abort] := by
  obtain ⟨hdrained, hlive⟩ := h.jobNeedsRoom hjob
  cases i with
  | pop n =>
    have := size_bytes_pos n
    simp only [Admits, hdrained]
    simp
    omega
  | _ => simp [Admits, hjob, hlive]

/-! ### The engine agent's turn -/

/-- The pairs of the dispatch table (R279). -/
def State.Dispatched (s : State) : Prop :=
  (s.job = .fwd ∨ s.job = .bwd) ∧ s.mode = .idle ∨
    (s.job = .block ∨ s.job = .final) ∧ (s.mode = .enc ∨ s.mode = .dec)

theorem engineStep_encFinal {s : State} (hj : s.job = .final) (hm : s.mode = .enc) :
    engineStep s = jobEncFinal s := by
  simp only [engineStep, hj, hm]

theorem engineStep_decFinal {s : State} (hj : s.job = .final) (hm : s.mode = .dec) :
    engineStep s = jobDecFinal s := by
  simp only [engineStep, hj, hm]

/-- The invariants (c) and (d) put every pending job in the dispatch table. -/
theorem dispatched_of_busy {s : State} (h : s.Inv) (hjob : s.job ≠ .none) : s.Dispatched := by
  cases hj : s.job with
  | none => exact absurd hj hjob
  | fwd => exact .inl ⟨.inl hj, (h.transformLoaded (.inl hj)).1⟩
  | bwd => exact .inl ⟨.inr hj, (h.transformLoaded (.inr hj)).1⟩
  | block => exact .inr ⟨.inl hj, h.streamJobOpen (.inl hj)⟩
  | final => exact .inr ⟨.inr hj, h.streamJobOpen (.inr hj)⟩

/-! ### What the job `FINAL` emits -/

/-- The three cases of the encryptor's end of stream: the padded remainder, the marker block, nothing (R215). -/
theorem encTail_cases (s : State) :
    (0 < s.bufcnt.toNat ∧
      encTail s = { chainStep (fit 64 (pad (bufBytes s))) s with pfb := false, any := true }) ∨
    (s.bufcnt = 0 ∧ s.markerNeeded = true ∧ encTail s = chainStep markerBlock s) ∨
    (s.bufcnt = 0 ∧ s.markerNeeded = false ∧ encTail s = s) := by
  by_cases hbuf : 0 < s.bufcnt.toNat
  · exact .inl ⟨hbuf, by rw [encTail, if_pos hbuf]⟩
  · have hzero : s.bufcnt = 0 := BitVec.eq_of_toNat_eq (by simpa using hbuf)
    cases hmark : s.markerNeeded with
    | true => exact .inr (.inl ⟨hzero, rfl, by rw [encTail, if_neg hbuf, if_pos hmark]⟩)
    | false => exact .inr (.inr ⟨hzero, rfl, by rw [encTail, if_neg hbuf, hmark, if_neg nofun]⟩)

theorem decTail_nothing {s : State} (h : s.heldv = false ∨ finalRule s.held = none) : decTail s = s := by
  unfold decTail
  split
  next hv =>
    have hnone : finalRule s.held = none := h.resolve_left (by rw [hv]; exact nofun)
    rw [hnone]
  next => rfl

theorem decTail_emits {s : State} {f : List Byte} (hv : s.heldv = true) (hf : finalRule s.held = some f) :
    decTail s = emitBytes f s := by
  simp only [decTail, hv, hf, if_true]

/-- The decryptor's end of stream emits what the final-block rule leaves of the held block, or nothing (R243). -/
theorem decTail_cases (s : State) :
    (∃ f, finalRule s.held = some f ∧ decTail s = emitBytes f s) ∨ decTail s = s := by
  cases hv : s.heldv with
  | false => exact .inr (decTail_nothing (.inl hv))
  | true =>
    cases hf : finalRule s.held with
    | none => exact .inr (decTail_nothing (.inr hf))
    | some f => exact .inl ⟨f, rfl, decTail_emits hv hf⟩

/-! ### All that the engine's turn can do -/

/-- The output after an engine step: as it was, or 1 to 64 bytes of which none is popped (R24). -/
def OutputAfter (s : State) (olen ord : BitVec 7) : Prop :=
  olen = s.olen ∧ ord = s.ord ∨ (1 ≤ olen.toNat ∧ olen.toNat ≤ 64) ∧ ord = 0

theorem outputAfter_block (s : State) : OutputAfter s 64 0 := .inr ⟨by decide, rfl⟩

theorem outputAfter_kept (s : State) : OutputAfter s s.olen s.ord := .inl ⟨rfl, rfl⟩

theorem encTail_shape (s : State) : ∃ obuf olen ord chain pfb any, OutputAfter s olen ord ∧
    encTail s = { s with obuf := obuf, olen := olen, ord := ord, chain := chain, pfb := pfb, any := any } := by
  rcases encTail_cases s with ⟨-, h⟩ | ⟨-, -, h⟩ | ⟨-, -, h⟩
  · exact ⟨_, _, _, _, _, _, outputAfter_block s, by rw [h, chainStep, emitBlock]⟩
  · exact ⟨_, _, _, _, _, _, outputAfter_block s, by rw [h, chainStep, emitBlock]⟩
  · exact ⟨_, _, _, _, _, _, outputAfter_kept s, h⟩

theorem decTail_shape (s : State) : ∃ obuf olen ord, OutputAfter s olen ord ∧
    decTail s = { s with obuf := obuf, olen := olen, ord := ord } := by
  rcases decTail_cases s with ⟨f, hf, h⟩ | h
  · have hlen := finalRule_length hf
    have hsize : (BitVec.ofNat 7 f.length).toNat = f.length := by
      rw [BitVec.toNat_ofNat]
      omega
    exact ⟨_, _, _, .inr ⟨hsize.symm ▸ hlen, rfl⟩, h⟩
  · exact ⟨_, _, _, outputAfter_kept s, h⟩

/-- All that the engine's turn can do to the counters, the flags, `MODE` and `JOB`, whatever the bytes it computes: one
case for each kind of job in the dispatch table, and nothing outside the table (R279, U15). -/
inductive EngineTurn (s : State) : State → Prop
  | transform (hj : s.job = .fwd ∨ s.job = .bwd) (hm : s.mode = .idle) (obuf : Block) :
    EngineTurn s { s with obuf := obuf, olen := 64, ord := 0, bufcnt := 0, job := .none }
  | encBlock (hj : s.job = .block) (hm : s.mode = .enc) (buf : Bytes 67) (obuf chain : Block) :
    EngineTurn s { s with
      buf := buf, bufcnt := BitVec.ofNat 8 (s.bufcnt.toNat - 64), obuf := obuf, olen := 64, ord := 0
      chain := chain, pfb := true, any := true, job := .none }
  | decBlock (hj : s.job = .block) (hm : s.mode = .dec) (buf : Bytes 67) (obuf held chain : Block)
      (olen ord : BitVec 7) (hout : OutputAfter s olen ord) :
    EngineTurn s { s with
      buf := buf, bufcnt := BitVec.ofNat 8 (s.bufcnt.toNat - 64), obuf := obuf, olen := olen, ord := ord
      held := held, chain := chain, heldv := true, job := .none }
  | final (hj : s.job = .final) (hm : s.mode = .enc ∨ s.mode = .dec) (obuf chain : Block) (olen ord : BitVec 7)
      (bufcnt : BitVec 8) (heldv pfb any : Bool) (hout : OutputAfter s olen ord) :
    EngineTurn s { s with
      obuf := obuf, olen := olen, ord := ord, chain := chain, bufcnt := bufcnt, heldv := heldv, pfb := pfb
      any := any, mode := .idle, done := true, job := .none }
  | noop (h : ¬ s.Dispatched) : EngineTurn s s

theorem engineStep_cases (s : State) : EngineTurn s (engineStep s) := by
  unfold engineStep
  split
  next hj hm =>
    rw [jobFwd, emitBlock]
    exact .transform (.inl hj) hm _
  next hj hm =>
    rw [jobBwd, emitBlock]
    exact .transform (.inr hj) hm _
  next hj hm =>
    rw [jobEncBlock, shiftBuf, chainStep, emitBlock]
    exact .encBlock hj hm _ _ _
  next hj hm =>
    rw [jobDecBlock]
    split
    · rw [shiftBuf, emitBlock]
      exact .decBlock hj hm _ _ _ _ _ _ (outputAfter_block s)
    · rw [shiftBuf]
      exact .decBlock hj hm _ _ _ _ _ _ (outputAfter_kept s)
  next hj hm =>
    obtain ⟨obuf, olen, ord, chain, pfb, any, hout, htail⟩ := encTail_shape s
    rw [jobEncFinal, htail]
    exact .final hj (.inl hm) _ _ _ _ _ _ _ _ hout
  next hj hm =>
    obtain ⟨obuf, olen, ord, hout, htail⟩ := decTail_shape s
    rw [jobDecFinal, htail]
    exact .final hj (.inr hm) _ _ _ _ _ _ _ _ hout
  next hf hb heb hdb hef hdf =>
    refine .noop ?_
    rintro (⟨hj | hj, hm⟩ | ⟨hj | hj, hm | hm⟩)
    exacts [hf hj hm, hb hj hm, heb hj hm, hdb hj hm, hef hj hm, hdf hj hm]

/-! ### What the engine's turn leaves unchanged -/

/-- The key, the IV and their lengths are the same (R21, R22). -/
structure SameOperands (s t : State) : Prop where
  key : t.key = s.key
  keylen : t.keylen = s.keylen
  iv : t.iv = s.iv
  ivlen : t.ivlen = s.ivlen

/-- No engine step touches the key, the IV or the error code (R279). -/
theorem EngineTurn.frame {s t : State} (h : EngineTurn s t) : SameOperands s t ∧ t.err = s.err := by
  cases h <;> exact ⟨⟨rfl, rfl, rfl, rfl⟩, rfl⟩

/-- A dispatched engine step ends its job (R279). -/
theorem EngineTurn.job_eq_none {s t : State} (h : EngineTurn s t) (hd : s.Dispatched) : t.job = .none := by
  cases h with
  | noop hn => exact absurd hd hn
  | _ => rfl

/-- No engine step faults (R279, R300). -/
theorem EngineTurn.mode_ne_fault {s t : State} (h : EngineTurn s t) (hd : s.Dispatched) : t.mode ≠ .fault := by
  cases h with
  | noop hn => exact absurd hd hn
  | transform _ hm | encBlock _ hm | decBlock _ hm => exact ne_of_eq_of_ne hm nofun
  | final => exact nofun

/-! ### The statements -/

/-- Settles O18: the checks pass, so the command completes with the start state. -/
theorem startCommandsOpenAStream : Obligations.StartCommandsOpenAStream := by
  intro s hjob hmode hout hkey hiv
  have hadmits : Admits .encStart s := ⟨⟨hjob, hmode, hout⟩, hkey, hiv⟩
  exact ⟨exec_of_admits hadmits, exec_of_admits (i := .decStart) hadmits⟩

/-- Settles O32: the two cases of what the final-block rule leaves. -/
theorem decryptorFinalStep : Obligations.DecryptorFinalStep := by
  intro s hj hm
  rw [engineStep_decFinal hj hm]
  refine ⟨fun hnone => ?_, fun f hv hf => ?_⟩
  · rw [jobDecFinal, decTail_nothing hnone]
  · rw [jobDecFinal, decTail_emits hv hf, emitBytes, writePrefix]

/-- Settles O33: the invariants put the pending job in the dispatch table, whose every job ends. -/
theorem engineStepsEndTheirJob : Obligations.EngineStepsEndTheirJob := by
  intro s h hjob
  have hd : s.Dispatched := dispatched_of_busy h hjob
  have hturn : EngineTurn s (engineStep s) := engineStep_cases s
  obtain ⟨⟨hkey, hkeylen, hiv, hivlen⟩, herr⟩ := hturn.frame
  exact ⟨hd, hturn.job_eq_none hd, hturn.mode_ne_fault hd, herr, hkey, hkeylen, hiv, hivlen, engineStep_inputs s⟩

/-- Settles O34: with an empty remainder the invariant (i) calls for the marker block, so the end of stream emits a
block in every case. -/
theorem encryptorFinalEmitsOneBlock : Obligations.EncryptorFinalEmitsOneBlock := by
  intro s h hm hj
  rw [engineStep_encFinal hj hm]
  rcases encTail_cases s with ⟨-, htail⟩ | ⟨-, -, htail⟩ | ⟨hbuf, hnomark, -⟩
  · rw [jobEncFinal, htail]
    exact ⟨rfl, rfl, rfl, rfl, rfl⟩
  · rw [jobEncFinal, htail]
    exact ⟨rfl, rfl, rfl, rfl, rfl⟩
  · have hmark : s.markerNeeded = true := h.markerFlags.2 ⟨hm, hj, hbuf⟩
    rw [hnomark] at hmark
    exact nomatch hmark

/-- Settles O39: what a busy engine does not admit faults, and what it admits does not. -/
theorem busyAdmitsOnlyReadsResetAbort : Obligations.BusyAdmitsOnlyReadsResetAbort := by
  intro i s t h hjob ht
  have hlive : s.mode ≠ .fault := (h.jobNeedsRoom hjob).2
  rw [← admits_iff_of_busy h hjob]
  constructor
  · intro hnofault
    cases exec_cases ht with
    | admitted ha => exact ha
    | faulted => exact absurd rfl hnofault
    | ignored hf => exact absurd hf hlive
  · intro ha
    rw [exec_of_admits ha, reply_eq_next] at ht
    rw [ht]
    exact admittedEffect_mode_ne_fault i hlive

end Sys2Proof.Machine
end

section
/-! PROOFS. The invariants (a) to (i) of R36, kept by every step; the key and the IV of an operation in progress. -/

namespace Sys2Proof.Machine

/-! ### The invariants of a state, by mode -/

/-- The error code is set in `FAULT` mode only (R36(g)). -/
theorem State.Inv.err_eq_none {s : State} (h : s.Inv) (hm : s.mode ≠ .fault) : s.err = none :=
  Decidable.not_not.mp fun he => hm (h.faultDiscards.1.mpr he)

/-- R36(g) outside `FAULT` mode. -/
theorem faultDiscards_of_live {s : State} (hm : s.mode ≠ .fault) (he : s.err = none) : s.faultDiscards :=
  ⟨iff_of_false hm (not_not_intro he), fun hf => absurd hf hm⟩

/-- Of an idle engine without a job the invariants ask only that the output is within its bounds and `ERR` is 0. -/
theorem inv_of_idle {s : State} (hm : s.mode = .idle) (hj : s.job = .none) (hout : s.outputWithin)
    (he : s.err = none) : s.Inv where
  outputWithin := hout
  jobNeedsRoom := fun h => absurd hj h
  transformLoaded := by simp [State.transformLoaded, hj]
  streamJobOpen := by simp [State.streamJobOpen, hj]
  streamLengths := by simp [State.streamLengths, hm]
  bufferBounds := by simp [State.bufferBounds, hm, hj]
  faultDiscards := faultDiscards_of_live (by rw [hm]; exact nofun) he
  modeFlags := by simp [State.modeFlags, hm]
  markerFlags := by simp [State.markerFlags, hm]

/-- An idle engine whose key or IV is pushed or cleared (R184, R185, R272, R273). -/
theorem inv_of_reloaded {s : State} (h : s.Inv) (hm : s.mode = .idle) (hj : s.job = .none) (key : Key)
    (keylen : BitVec 8) (iv : Block) (ivlen : BitVec 8) :
    { s with key := key, keylen := keylen, iv := iv, ivlen := ivlen }.Inv :=
  inv_of_idle hm hj h.outputWithin (h.err_eq_none (by rw [hm]; exact nofun))

theorem ne_fault_of_open {m : Mode} (h : m = .enc ∨ m = .dec) : m ≠ .fault := by
  rcases h with rfl | rfl <;> exact nofun

/-- What the invariants ask of an open stream without a job. -/
theorem inv_of_waiting {s : State} (hm : s.mode = .enc ∨ s.mode = .dec) (hj : s.job = .none) (hout : s.outputWithin)
    (hlen : s.keylen = 32 ∧ s.ivlen = 64) (hbuf : s.bufcnt.toNat ≤ 63) (he : s.err = none) (hflags : s.modeFlags)
    (hmark : s.mode = .enc → s.any = s.pfb) : s.Inv where
  outputWithin := hout
  jobNeedsRoom := fun h => absurd hj h
  transformLoaded := by simp [State.transformLoaded, hj]
  streamJobOpen := by simp [State.streamJobOpen, hj]
  streamLengths := fun _ => hlen
  bufferBounds := ⟨fun _ => hbuf, by simp [hj], by simp [hj]⟩
  faultDiscards := faultDiscards_of_live (ne_fault_of_open hm) he
  modeFlags := hflags
  markerFlags := ⟨fun h => hmark h.1, by simp [hj]⟩

/-- An idle engine that latches `FWD` or `BWD` on a whole operand (R156, R157). -/
theorem inv_of_transformLatched {s : State} (h : s.Inv) {j : Job} (hj : j = .fwd ∨ j = .bwd) (hm : s.mode = .idle)
    (hdrained : s.oavail = 0) (hkey : s.keylen = 32) (hbuf : s.bufcnt = 64) : { s with job := j }.Inv where
  outputWithin := h.outputWithin
  jobNeedsRoom := fun _ => ⟨hdrained, by simp [hm]⟩
  transformLoaded := fun _ => ⟨hm, hkey, hbuf⟩
  streamJobOpen := by rcases hj with rfl | rfl <;> simp [State.streamJobOpen]
  streamLengths := h.streamLengths
  bufferBounds := by rcases hj with rfl | rfl <;> simp [State.bufferBounds, hm]
  faultDiscards := faultDiscards_of_live (by simp [hm]) (h.err_eq_none (by simp [hm]))
  modeFlags := h.modeFlags
  markerFlags := by simp [State.markerFlags, hm]

/-- An open stream that latches `FINAL`: `ANY = PFB` makes the marker condition hold (R214, R36(i)). -/
theorem inv_of_finalLatched {s : State} (h : s.Inv) (hj : s.job = .none) (hm : s.mode = .enc ∨ s.mode = .dec)
    (hdrained : s.oavail = 0) (hrest : s.mode = .dec → s.bufcnt = 0) : { s with job := .final }.Inv where
  outputWithin := h.outputWithin
  jobNeedsRoom := fun _ => ⟨hdrained, ne_fault_of_open hm⟩
  transformLoaded := by simp [State.transformLoaded]
  streamJobOpen := fun _ => hm
  streamLengths := h.streamLengths
  bufferBounds := ⟨fun _ => h.bufferBounds.1 ⟨hm, by simp [hj]⟩, nofun, fun hd => hrest hd.2⟩
  faultDiscards := faultDiscards_of_live (ne_fault_of_open hm) (h.err_eq_none (ne_fault_of_open hm))
  modeFlags := h.modeFlags
  markerFlags := by
    refine ⟨fun hn => absurd rfl hn.2, fun he => ?_⟩
    have hflag : s.any = s.pfb := h.markerFlags.1 ⟨he.1, by simp [hj]⟩
    simp [State.markerNeeded, hflag]

/-- An open stream whose buffer a push has filled, and the job `BLOCK` (R187). -/
theorem inv_of_blockLatched {s : State} (h : s.Inv) (hj : s.job = .none) (hm : s.mode = .enc ∨ s.mode = .dec)
    (hdrained : s.oavail = 0) (buf : Bytes 67) {c : BitVec 8} (hc : 64 ≤ c.toNat ∧ c.toNat ≤ 67) :
    { s with buf := buf, bufcnt := c, job := .block }.Inv where
  outputWithin := h.outputWithin
  jobNeedsRoom := fun _ => ⟨hdrained, ne_fault_of_open hm⟩
  transformLoaded := by simp [State.transformLoaded]
  streamJobOpen := fun _ => hm
  streamLengths := h.streamLengths
  bufferBounds := ⟨fun hn => absurd rfl hn.2, fun _ => hc, by simp⟩
  faultDiscards := faultDiscards_of_live (ne_fault_of_open hm) (h.err_eq_none (ne_fault_of_open hm))
  modeFlags := h.modeFlags
  markerFlags := ⟨fun he => h.markerFlags.1 ⟨he.1, by simp [hj]⟩, by simp⟩

/-! ### Every instruction keeps the invariants -/

/-- The value returned and the events to come are no part of the invariants. -/
theorem State.Inv.of_resp {s : State} (h : s.Inv) (r : Option Word32) : { s with resp := r }.Inv :=
  inv_of_same_control h rfl rfl rfl rfl rfl rfl rfl rfl rfl rfl rfl rfl

theorem State.Inv.of_takeEvent {s : State} (h : s.Inv) : (takeEvent s).Inv :=
  inv_of_same_control h rfl rfl rfl rfl rfl rfl rfl rfl rfl rfl rfl rfl

theorem softReset_inv (s : State) : (softReset s).Inv :=
  inv_of_idle rfl rfl ⟨Nat.le_refl _, Nat.zero_le _, fun _ => rfl⟩ rfl

theorem startState_keeps_inv {s : State} (h : s.Inv) {m : Mode} (hm : m = .enc ∨ m = .dec) (hj : s.job = .none)
    (hidle : s.mode = .idle) (hkey : s.keylen = 32) (hiv : s.ivlen = 64) : (startState m s).Inv :=
  inv_of_waiting hm hj h.outputWithin ⟨hkey, hiv⟩ (Nat.zero_le _) (h.err_eq_none (by rw [hidle]; exact nofun))
    ⟨fun _ => rfl, fun _ => ⟨rfl, rfl⟩⟩ fun _ => rfl

/-- A `POP` takes what is there: the output pointer stays within the output, or the output is empty (R190). -/
theorem advanceOutput_outputWithin {n : Size} {s : State} (h : s.outputWithin) (havail : n.bytes ≤ s.oavail) :
    (advanceOutput n s).outputWithin := by
  obtain ⟨hord, holen, -⟩ := h
  rcases advanceOutput_cases n s with ⟨-, heq⟩ | ⟨-, heq⟩ <;> rw [heq]
  · exact ⟨Nat.le_refl _, Nat.zero_le _, fun _ => rfl⟩
  · have hpos := size_bytes_pos n
    simp only [State.oavail] at havail
    have hnew : (BitVec.ofNat 7 (s.ord.toNat + n.bytes)).toNat = s.ord.toNat + n.bytes := by
      rw [BitVec.toNat_ofNat]
      omega
    refine ⟨by rw [hnew]; exact Nat.add_le_of_le_sub' hord havail, holen, fun hzero => ?_⟩
    have hzero' : s.olen.toNat = 0 := congrArg BitVec.toNat hzero
    omega

/-- A `POP` that is admitted finds bytes to pop, so no job is pending. -/
theorem pop_keeps_inv {n : Size} {s : State} (h : s.Inv) (hlive : s.mode ≠ .fault) (havail : n.bytes ≤ s.oavail) :
    (advanceOutput n s).Inv := by
  have hout : (advanceOutput n s).outputWithin := advanceOutput_outputWithin h.outputWithin havail
  have hj : s.job = .none := by
    by_contra hbusy
    have hdrained : s.oavail = 0 := (h.jobNeedsRoom hbusy).1
    have hpos := size_bytes_pos n
    omega
  rcases advanceOutput_cases n s with ⟨-, heq⟩ | ⟨-, heq⟩ <;> rw [heq] at hout ⊢ <;>
    exact ⟨hout, fun hbusy => absurd hj hbusy, h.transformLoaded, h.streamJobOpen, h.streamLengths, h.bufferBounds,
      faultDiscards_of_live hlive (h.err_eq_none hlive), h.modeFlags, h.markerFlags⟩

theorem mode_idle_or_open {s : State} (hlive : s.mode ≠ .fault) : s.mode = .idle ∨ s.mode = .enc ∨ s.mode = .dec := by
  cases hm : s.mode with
  | fault => exact absurd hm hlive
  | _ => simp

/-- A push of `k` bytes of data leaves the stream short of a block, or fills one and latches `BLOCK` on a drained output
(R186, R187). -/
theorem pushd_keeps_inv {s : State} (h : s.Inv) (hlive : s.mode ≠ .fault) (hj : s.job = .none) (buf : Bytes 67)
    {k : Nat} (hk : k ≤ 4) (hroom : s.streaming = true → s.bufcnt.toNat + k < 64 ∨ s.oavail = 0) :
    (latchBlock { s with buf := buf, bufcnt := countRun s.bufcnt k }).Inv := by
  have herr : s.err = none := h.err_eq_none hlive
  rcases mode_idle_or_open hlive with hidle | hopen
  · rw [latchBlock_waits (by simp [hidle])]
    exact inv_of_idle hidle hj h.outputWithin herr
  · have hshort : s.bufcnt.toNat ≤ 63 := h.bufferBounds.1 ⟨hopen, by simp [hj]⟩
    have hcount : (countRun s.bufcnt k).toNat = s.bufcnt.toNat + k := by
      rw [countRun_toNat]
      omega
    by_cases hfull : s.bufcnt.toNat + k < 64
    · rw [latchBlock_waits (fun _ => hcount ▸ hfull)]
      exact inv_of_waiting hopen hj h.outputWithin (h.streamLengths hopen) (Nat.le_of_lt_succ (hcount ▸ hfull)) herr
        h.modeFlags fun he => h.markerFlags.1 ⟨he, by simp [hj]⟩
    · have hfilled : 64 ≤ (countRun s.bufcnt k).toNat ∧ (countRun s.bufcnt k).toNat ≤ 67 := by omega
      rw [latchBlock_latches (s := { s with buf := buf, bufcnt := countRun s.bufcnt k }) hopen hfilled.1]
      have hdrained : s.oavail = 0 := (hroom (by simpa [State.streaming] using hopen)).resolve_left hfull
      exact inv_of_blockLatched h hj hopen hdrained buf hfilled

theorem admittedEffect_keeps_inv {i : Instr} {s : State} (h : s.Inv) (ha : Admits i s) :
    (admittedEffect i s).Inv := by
  cases i with
  | reset => exact softReset_inv s
  | rdid | rdparam | rdstatus | rdlen => exact h
  | abort => exact inv_of_idle rfl rfl ⟨Nat.le_refl _, Nat.zero_le _, fun _ => rfl⟩ (h.err_eq_none ha)
  | clrkey | clriv =>
    obtain ⟨hj, hm⟩ := ha
    exact inv_of_reloaded h hm hj _ _ _ _
  | pushk n v =>
    obtain ⟨hj, hm⟩ := ha
    rw [admittedEffect, foldl_pushKeyByte]
    exact inv_of_reloaded h hm hj _ _ _ _
  | pushiv n v =>
    obtain ⟨hj, hm⟩ := ha
    rw [admittedEffect, foldl_pushIvByte]
    exact inv_of_reloaded h hm hj _ _ _ _
  | fwd =>
    obtain ⟨⟨-, hm, hdrained⟩, hkey, hbuf⟩ := ha
    exact inv_of_transformLatched h (.inl rfl) hm hdrained hkey hbuf
  | bwd =>
    obtain ⟨⟨-, hm, hdrained⟩, hkey, hbuf⟩ := ha
    exact inv_of_transformLatched h (.inr rfl) hm hdrained hkey hbuf
  | encStart =>
    obtain ⟨⟨hj, hm, -⟩, hkey, hiv⟩ := ha
    exact startState_keeps_inv h (.inl rfl) hj hm hkey hiv
  | decStart =>
    obtain ⟨⟨hj, hm, -⟩, hkey, hiv⟩ := ha
    exact startState_keeps_inv h (.inr rfl) hj hm hkey hiv
  | final =>
    obtain ⟨⟨hj, hopen, hdrained⟩, hrest⟩ := ha
    exact inv_of_finalLatched h hj (by simpa [State.streaming] using hopen) hdrained hrest
  | pushd n v =>
    obtain ⟨hlive, hj, hroom⟩ := ha
    rw [admittedEffect, foldl_pushBufByte, length_lanes]
    exact pushd_keeps_inv h hlive hj _ (size_bytes_le n) hroom
  | pop n =>
    obtain ⟨hlive, havail⟩ := ha
    exact pop_keeps_inv h hlive havail

/-- Every ending of an instruction keeps the invariants. -/
theorem exec_keeps_inv {i : Instr} {s t : State} (h : s.Inv) (ht : exec i s = .next t) : t.Inv := by
  cases exec_cases ht with
  | admitted ha => exact (admittedEffect_keeps_inv h ha).of_resp _
  | faulted _ code => exact (raiseFault_keeps_inv code h).of_resp _
  | ignored => exact h.of_resp _

theorem execUndecoded_keeps_inv {e : DecodeError} {s t : State} (h : s.Inv) (ht : execUndecoded e s = .next t) :
    t.Inv := by
  obtain ⟨code, r, ⟨-, rfl⟩ | ⟨-, rfl⟩⟩ := execUndecoded_cases ht
  · exact (raiseFault_keeps_inv code h).of_resp r
  · exact h.of_resp r

theorem execTransaction_keeps_inv {d : Descriptor} {s t : State} (h : s.Inv) (ht : execTransaction d s = .next t) :
    t.Inv := by
  cases hd : decode d with
  | ok i => exact exec_keeps_inv h (execTransaction_decoded hd s ▸ ht)
  | error e => exact execUndecoded_keeps_inv h (execTransaction_undecoded hd s ▸ ht)

/-! ### Every engine step keeps the invariants -/

theorem outputWithin_of_outputAfter {s t : State} (h : s.outputWithin) (hout : OutputAfter s t.olen t.ord) :
    t.outputWithin := by
  rcases hout with ⟨hl, ho⟩ | ⟨⟨hpos, hle⟩, ho⟩
  · rw [State.outputWithin, hl, ho]
    exact h
  · rw [State.outputWithin, ho]
    exact ⟨Nat.zero_le _, hle, fun _ => rfl⟩

/-- The `BLOCK` job takes 64 of at most 67 bytes (R188, R36(f)). -/
theorem shifted_count_le {s : State} (h : s.Inv) (hj : s.job = .block) :
    (BitVec.ofNat 8 (s.bufcnt.toNat - 64)).toNat ≤ 63 := by
  have hbounds : 64 ≤ s.bufcnt.toNat ∧ s.bufcnt.toNat ≤ 67 := h.bufferBounds.2.1 hj
  rw [BitVec.toNat_ofNat]
  omega

theorem EngineTurn.keeps_inv {s t : State} (h : s.Inv) (ht : EngineTurn s t) : t.Inv := by
  cases ht with
  | noop => exact h
  | transform hj hm obuf =>
    exact inv_of_idle hm rfl (outputWithin_of_outputAfter h.outputWithin (outputAfter_block s))
      (h.err_eq_none (by rw [hm]; exact nofun))
  | final hj hm obuf chain olen ord bufcnt heldv pfb any hout =>
    exact inv_of_idle rfl rfl (outputWithin_of_outputAfter h.outputWithin hout) (h.err_eq_none (ne_fault_of_open hm))
  | encBlock hj hm buf obuf chain =>
    have hopen : s.mode = .enc ∨ s.mode = .dec := .inl hm
    refine inv_of_waiting hopen rfl (outputWithin_of_outputAfter h.outputWithin (outputAfter_block s))
      (h.streamLengths hopen) (shifted_count_le h hj) (h.err_eq_none (ne_fault_of_open hopen)) ⟨h.modeFlags.1, ?_⟩
      fun _ => rfl
    simp [hm]
  | decBlock hj hm buf obuf held chain olen ord hout =>
    have hopen : s.mode = .enc ∨ s.mode = .dec := .inr hm
    refine inv_of_waiting hopen rfl (outputWithin_of_outputAfter h.outputWithin hout) (h.streamLengths hopen)
      (shifted_count_le h hj) (h.err_eq_none (ne_fault_of_open hopen)) ⟨?_, h.modeFlags.2⟩ ?_ <;> simp [hm]

/-! ### The key and the IV of an operation in progress -/

theorem sameOperands_resp {s t : State} (h : SameOperands s t) (r : Option Word32) :
    SameOperands s { t with resp := r } := ⟨h.key, h.keylen, h.iv, h.ivlen⟩

theorem sameOperands_raiseFault (code : FaultCode) (s : State) : SameOperands s (raiseFault code s) :=
  ⟨rfl, rfl, rfl, rfl⟩

/-- While an operation is in progress no push or clear of the key or the IV is admitted, and nothing else but `RESET`
touches them (R346). -/
theorem admittedEffect_sameOperands {i : Instr} {s : State} (hop : s.mode ≠ .idle ∨ s.job ≠ .none) (hi : i ≠ .reset)
    (ha : Admits i s) : SameOperands s (admittedEffect i s) := by
  cases i with
  | reset => exact absurd rfl hi
  | clrkey | clriv | pushk | pushiv =>
    obtain ⟨hj, hm⟩ := ha
    exact absurd hop (by simp [hj, hm])
  | pushd n v =>
    rw [admittedEffect, foldl_pushBufByte, latchBlock]
    split <;> exact ⟨rfl, rfl, rfl, rfl⟩
  | pop n =>
    rw [admittedEffect]
    rcases advanceOutput_cases n s with ⟨-, h⟩ | ⟨-, h⟩ <;> rw [h] <;> exact ⟨rfl, rfl, rfl, rfl⟩
  | _ => exact ⟨rfl, rfl, rfl, rfl⟩

/-- A step of an operation in progress keeps the key and the IV, or is a reset. -/
def KeepsOperandsOrResets (s t : State) : Prop := SameOperands s t ∨ t = { State.reset with inputs := t.inputs }

theorem exec_operands {i : Instr} {s t : State} (hop : s.mode ≠ .idle ∨ s.job ≠ .none) (ht : exec i s = .next t) :
    KeepsOperandsOrResets s t := by
  cases exec_cases ht with
  | admitted ha =>
    by_cases hi : i = .reset
    · subst hi
      exact .inr rfl
    · exact .inl (sameOperands_resp (admittedEffect_sameOperands hop hi ha) _)
  | faulted _ code => exact .inl (sameOperands_resp (sameOperands_raiseFault code s) _)
  | ignored => exact .inl ⟨rfl, rfl, rfl, rfl⟩

theorem execTransaction_operands {d : Descriptor} {s t : State} (hop : s.mode ≠ .idle ∨ s.job ≠ .none)
    (ht : execTransaction d s = .next t) : KeepsOperandsOrResets s t := by
  cases hd : decode d with
  | ok i => exact exec_operands hop (execTransaction_decoded hd s ▸ ht)
  | error e =>
    obtain ⟨code, r, ⟨-, rfl⟩ | ⟨-, rfl⟩⟩ := execUndecoded_cases (execTransaction_undecoded hd s ▸ ht)
    · exact .inl (sameOperands_resp (sameOperands_raiseFault code s) r)
    · exact .inl ⟨rfl, rfl, rfl, rfl⟩

/-! ### The statements -/

/-- Settles O41: a transaction, the engine's turn and a hardware reset each keep the invariants. -/
theorem stepKeepsTheInvariants : Obligations.StepKeepsTheInvariants := by
  intro s t h ht
  have htaken : (takeEvent s).Inv := h.of_takeEvent
  cases he : nextEvent s with
  | transaction d => exact execTransaction_keeps_inv htaken (step_transaction he ▸ ht)
  | engine =>
    rw [step_engine he, reply_eq_next] at ht
    rw [ht]
    exact ((engineStep_cases _).keeps_inv htaken).of_resp none
  | hardwareReset =>
    rw [step_hardwareReset he, reply_eq_next] at ht
    rw [ht]
    exact (softReset_inv _).of_resp none

/-- Settles O40: the reset state is idle, without a job, output or error. -/
theorem resetMeetsTheInvariants : Obligations.ResetMeetsTheInvariants := softReset_inv State.reset

/-- Settles O42: of the transactions only `RESET` touches the key and the IV of an operation in progress, and no engine
step does. -/
theorem keyAndIvAreConstantDuringAnOperation : Obligations.KeyAndIvAreConstantDuringAnOperation := by
  intro s t hop ht
  have hcases : KeepsOperandsOrResets (takeEvent s) t := by
    cases he : nextEvent s with
    | transaction d => exact execTransaction_operands hop (step_transaction he ▸ ht)
    | engine =>
      rw [step_engine he, reply_eq_next] at ht
      rw [ht]
      exact .inl (sameOperands_resp (engineStep_cases _).frame.1 none)
    | hardwareReset =>
      rw [step_hardwareReset he, reply_eq_next] at ht
      rw [ht]
      exact .inr rfl
  exact hcases.imp_left fun ⟨hkey, hkeylen, hiv, hivlen⟩ => ⟨hkey, hkeylen, hiv, hivlen⟩

end Sys2Proof.Machine
end

section
/-! PROOFS. No transaction discloses a hidden byte: what the host can see of a result depends only on what it can see of
the state (R37, R319). -/

namespace Sys2Proof.Machine

/-! ### What the host can see of a result -/

/-- A result with the bytes of `KEY`, `IV`, `BUF`, `CHAIN` and `HELD` hidden. -/
def hideResult : Result → Result
  | .next s => .next s.hideSecrets
  | .fault r => .fault r
  | .refused r => .refused r

theorem mode_of_hidden {s t : State} (h : s.hideSecrets = t.hideSecrets) : s.mode = t.mode :=
  (congrArg State.mode h :)

theorem hideResult_reply {r q : Option Word32} {s t : State} (hr : r = q) (h : s.hideSecrets = t.hideSecrets) :
    hideResult (reply r s) = hideResult (reply q t) :=
  congrArg₂ reply hr h

theorem raiseFault_hidden (code : FaultCode) {s t : State} (h : s.hideSecrets = t.hideSecrets) :
    (raiseFault code s).hideSecrets = (raiseFault code t).hideSecrets :=
  congrArg (raiseFault code) h

/-- A `requires` line on what the host can see discloses nothing. -/
theorem hideResult_require {c d : Prop} [Decidable c] [Decidable d] {code : FaultCode} {r : Option Word32}
    {s t : State} {k l : Result} (hcd : c ↔ d) (h : s.hideSecrets = t.hideSecrets) (hk : hideResult k = hideResult l) :
    hideResult (require c code r s k) = hideResult (require d code r t l) := by
  by_cases hc : c
  · rwa [require_holds hc, require_holds (hcd.mp hc)]
  · rw [require_fails hc, require_fails (mt hcd.mpr hc)]
    exact hideResult_reply rfl (raiseFault_hidden code h)

theorem hideResult_unlessFaulted {r : Option Word32} {s t : State} {k l : Result}
    (h : s.hideSecrets = t.hideSecrets) (hk : hideResult k = hideResult l) :
    hideResult (unlessFaulted r s k) = hideResult (unlessFaulted r t l) := by
  have hmode : s.mode = t.mode := mode_of_hidden h
  by_cases hm : s.mode = .fault
  · rw [unlessFaulted_faulted hm, unlessFaulted_faulted (hmode ▸ hm)]
    exact hideResult_reply rfl h
  · rwa [unlessFaulted_live hm, unlessFaulted_live (hmode ▸ hm)]

/-! ### What the host can see of the effect of an instruction -/

/-- What the host can see of an admitted effect depends only on what it can see of the state. -/
theorem admittedEffect_hidden (i : Instr) {s t : State} (h : s.hideSecrets = t.hideSecrets) :
    (admittedEffect i s).hideSecrets = (admittedEffect i t).hideSecrets := by
  rw [hideSecrets_eq_iff] at h ⊢
  cases i with
  | pushk n v => simp [admittedEffect, foldl_pushKeyByte, h]
  | pushiv n v => simp [admittedEffect, foldl_pushIvByte, h]
  | pushd n v =>
    simp only [admittedEffect, foldl_pushBufByte, latchBlock, State.streaming, h]
    split <;> simp
  | pop n =>
    simp only [admittedEffect, advanceOutput, h]
    split <;> simp
  | _ => simp [admittedEffect, h]

/-- The value returned is a matter of `OBUF`, the counters, the flags, `MODE`, `JOB` and `ERR`. -/
theorem admittedReply_hideSecrets (i : Instr) (s : State) : admittedReply i s = admittedReply i s.hideSecrets := by
  cases i <;> rfl

theorem admittedReply_hidden (i : Instr) {s t : State} (h : s.hideSecrets = t.hideSecrets) :
    admittedReply i s = admittedReply i t := by
  rw [admittedReply_hideSecrets i s, h, ← admittedReply_hideSecrets i t]

/-! ### Every transaction -/

/-- The checks of every instruction are on what the host can see. -/
theorem exec_hidden (i : Instr) {s t : State} (h : s.hideSecrets = t.hideSecrets) :
    hideResult (exec i s) = hideResult (exec i t) := by
  have hsame := (hideSecrets_eq_iff s t).mp h
  have heffect : hideResult (reply (admittedReply i s) (admittedEffect i s)) =
      hideResult (reply (admittedReply i t) (admittedEffect i t)) :=
    hideResult_reply (admittedReply_hidden i h) (admittedEffect_hidden i h)
  have hidle : s.job = .none ∧ s.mode = .idle ↔ t.job = .none ∧ t.mode = .idle := by simp only [hsame]
  have hdrained : s.job = .none ∧ s.mode = .idle ∧ s.oavail = 0 ↔ t.job = .none ∧ t.mode = .idle ∧ t.oavail = 0 := by
    simp only [State.oavail, hsame]
  cases i with
  | reset | rdid | rdparam | rdstatus | rdlen => exact heffect
  | abort => exact hideResult_unlessFaulted h heffect
  | clrkey | clriv | pushk | pushiv =>
    exact hideResult_unlessFaulted h <| hideResult_require hidle h heffect
  | fwd | bwd | encStart | decStart =>
    exact hideResult_unlessFaulted h <| hideResult_require hdrained h <|
      hideResult_require (by simp only [hsame]) h <| hideResult_require (by simp only [hsame]) h heffect
  | final =>
    exact hideResult_unlessFaulted h <| hideResult_require (by simp only [State.streaming, State.oavail, hsame]) h <|
      hideResult_require (by simp only [hsame]) h heffect
  | pushd n v =>
    exact hideResult_unlessFaulted h <| hideResult_require (by simp only [hsame]) h <|
      hideResult_require (by simp only [State.streaming, State.oavail, hsame]) h heffect
  | pop n =>
    exact hideResult_unlessFaulted h <| hideResult_require (by simp only [State.oavail, hsame]) h heffect

theorem execUndecoded_hidden (e : DecodeError) {s t : State} (h : s.hideSecrets = t.hideSecrets) :
    hideResult (execUndecoded e s) = hideResult (execUndecoded e t) := by
  cases e with
  | notATransaction => rfl
  | illAddressedWrite | illAddressedRead | illegalCommand =>
    exact hideResult_unlessFaulted h (hideResult_reply rfl (raiseFault_hidden _ h))

theorem execTransaction_hidden (d : Descriptor) {s t : State} (h : s.hideSecrets = t.hideSecrets) :
    hideResult (execTransaction d s) = hideResult (execTransaction d t) := by
  cases hd : decode d with
  | ok i => rw [execTransaction_decoded hd, execTransaction_decoded hd, exec_hidden i h]
  | error e => rw [execTransaction_undecoded hd, execTransaction_undecoded hd, execUndecoded_hidden e h]

/-- Results that look the same have a next state both or neither, with the same value returned. -/
theorem next_of_hideResult_eq {k l : Result} {s : State} (h : hideResult k = hideResult l) (hk : k = .next s) :
    ∃ t, l = .next t ∧ s.resp = t.resp ∧ s.hideSecrets = t.hideSecrets := by
  subst hk
  cases l with
  | next t =>
    have hseen : s.hideSecrets = t.hideSecrets := Host.Outcome.next.inj h
    exact ⟨t, rfl, (congrArg State.resp hseen :), hseen⟩
  | fault => exact nomatch h
  | refused => exact nomatch h

/-! ### The statement -/

/-- Settles O44: the results of a transaction from the two states look the same to the host. -/
theorem transactionsDiscloseNoHiddenByte : Obligations.TransactionsDiscloseNoHiddenByte := by
  intro s t h
  exact ⟨fun i _ hs => next_of_hideResult_eq (exec_hidden i h) hs,
    fun d _ hs => next_of_hideResult_eq (execTransaction_hidden d h) hs⟩

end Sys2Proof.Machine
end

section
/-! PROOFS. The decoder: the transactions it reads an instruction from, those it refuses and how, and the step on a
transaction that is no instruction. -/

namespace Sys2Proof.Machine

/-! ### The fields of a descriptor -/

theorem sizeOfField_eq_none_iff {f : BitVec 2} : sizeOfField f = none ↔ f = 3 := by
  revert f
  decide

theorem sizeField_of_sizeOfField {f : BitVec 2} {n : Size} (h : sizeOfField f = some n) : f = sizeField n := by
  cases n <;> revert f <;> decide

theorem sizeField_ne_three (n : Size) : sizeField n ≠ 3 := by
  cases n <;> decide

theorem sizeField_eq_two_iff (n : Size) : sizeField n = 2 ↔ n = .b4 := by
  cases n <;> decide

/-- A descriptor is put together from its four fields (R91). -/
theorem descriptor_fields (t : Descriptor) :
    descriptor (t.extractLsb' 40 1) (Descriptor.sz t) (Descriptor.off t) (Descriptor.data t) = t := by
  apply BitVec.eq_of_getLsbD_eq
  intro i hi
  simp only [descriptor_getLsbD, Descriptor.sz, Descriptor.off, Descriptor.data, BitVec.getLsbD_extractLsb']
  split
  next h => simp [h]
  next h32 =>
    split
    next h38 =>
      have hfield : i - 32 < 6 := by omega
      simp [hfield, Nat.add_sub_cancel' (Nat.le_of_not_lt h32)]
    next h38 =>
      split
      next h40 =>
        have hfield : i - 38 < 2 := by omega
        simp [hfield, Nat.add_sub_cancel' (Nat.le_of_not_lt h38)]
      next h40 =>
        have hlast : i = 40 := by omega
        simp [hlast]

/-- A write is the transaction of its offset, size and value (R91). -/
theorem memWrite_fields {t : Descriptor} {n : Size} (hw : Descriptor.isWrite t = true)
    (hn : Descriptor.sz t = sizeField n) : memWrite (Descriptor.off t) n (Descriptor.data t) = t := by
  have hdir : t.extractLsb' 40 1 = 1 := eq_of_beq hw
  rw [memWrite, ← hdir, ← hn, descriptor_fields]

/-- A read with an empty data field is the transaction of its offset and size (R91). -/
theorem memRead_fields {t : Descriptor} {n : Size} (hr : Descriptor.isWrite t = false)
    (hn : Descriptor.sz t = sizeField n) (hd : Descriptor.data t = 0) : memRead (Descriptor.off t) n = t := by
  have hdir : t.extractLsb' 40 1 = 0 := by
    have hbit : ∀ b : BitVec 1, (b == 1#1) = false → b = 0 := by decide
    exact hbit _ hr
  rw [memRead, ← hdir, ← hn, ← hd, descriptor_fields]

/-- The value of a write that a host can issue fits its size (R62, R91). -/
theorem fits_data_of_canonical {t : Descriptor} {n : Size} (hw : Descriptor.isWrite t = true)
    (hn : Descriptor.sz t = sizeField n) (h : canonical t) : n.fits (Descriptor.data t) = true := by
  rw [canonical, if_pos hw] at h
  obtain ⟨hbyte, hhalf⟩ := h
  cases n with
  | b1 => exact decide_eq_true (hbyte hn)
  | b2 => exact decide_eq_true (hhalf hn)
  | b4 => exact decide_eq_true (Descriptor.data t).isLt

/-- The decoder cuts the data field of a push to its size (R62, log 5). -/
theorem fits_writeValue (n : Size) (v : Word32) : n.fits (writeValue n v) = true := by
  apply decide_eq_true
  cases n with
  | b1 => exact BitVec.toNat_and v 0x000000FF#32 ▸ Nat.lt_of_le_of_lt Nat.and_le_right (by decide)
  | b2 => exact BitVec.toNat_and v 0x0000FFFF#32 ▸ Nat.lt_of_le_of_lt Nat.and_le_right (by decide)
  | b4 => exact v.isLt

/-! ### The value of a command -/

/-- A command value is its opcode byte: the bits above are zero (R92). -/
theorem eq_setWidth_opcode {v : Word32} (h : v.extractLsb' 8 24 = 0) : v = (v.extractLsb' 0 8).setWidth 32 := by
  apply BitVec.eq_of_getLsbD_eq
  intro i hi
  by_cases hlow : i < 8
  · simp [hlow, hi]
  · have hhigh : (v.extractLsb' 8 24).getLsbD (i - 8) = false := by rw [h]; exact BitVec.getLsbD_zero
    have hfield : i - 8 < 24 := by omega
    simpa [hlow, hfield, Nat.add_sub_cancel' (Nat.le_of_not_lt hlow)] using hhigh

/-- A command value decodes to the command that is written with it (R94, R95). -/
theorem decodeCommand_of_mem {v : Word32} (h : v ∈ commandValues) :
    ∃ i, decodeCommand v = .ok i ∧ i.wf = true ∧ encode i = memWrite 0x08 .b4 v := by
  simp only [commandValues, List.mem_cons, List.not_mem_nil, or_false] at h
  rcases h with rfl | rfl | rfl | rfl | rfl | rfl | rfl | rfl | rfl <;> exact ⟨_, rfl, rfl, rfl⟩

/-- Every other value of a `CMD` write is refused: reserved bits are set or the opcode is reserved (R96, R97). -/
theorem decodeCommand_of_not_mem {v : Word32} (h : v ∉ commandValues) :
    decodeCommand v = .error .illegalCommand := by
  by_cases hhigh : v.extractLsb' 8 24 = 0
  · rw [eq_setWidth_opcode hhigh] at h
    generalize hop : v.extractLsb' 0 8 = op at h
    have hreserved : op ≠ 0x01 ∧ op ≠ 0x02 ∧ op ≠ 0x03 ∧ op ≠ 0x04 ∧ op ≠ 0x10 ∧ op ≠ 0x11 ∧ op ≠ 0x20 ∧
        op ≠ 0x21 ∧ op ≠ 0x22 := by
      refine ⟨?_, ?_, ?_, ?_, ?_, ?_, ?_, ?_, ?_⟩ <;> rintro rfl <;> exact h (by decide)
    simp only [decodeCommand, hhigh, hop, hreserved, ne_eq, not_true_eq_false, if_false]
  · rw [decodeCommand, if_pos hhigh]

theorem decodeCommand_eq_error_iff {v : Word32} {e : DecodeError} :
    decodeCommand v = .error e ↔ e = .illegalCommand ∧ v ∉ commandValues := by
  by_cases h : v ∈ commandValues
  · obtain ⟨i, hi, -⟩ := decodeCommand_of_mem h
    simp [hi, h]
  · simp [decodeCommand_of_not_mem h, h, eq_comm]

theorem decodeCommand_eq_ok {v : Word32} {i : Instr} (h : decodeCommand v = .ok i) :
    i.wf = true ∧ encode i = memWrite 0x08 .b4 v := by
  by_cases hv : v ∈ commandValues
  · obtain ⟨j, hj, hspec⟩ := decodeCommand_of_mem hv
    obtain rfl : j = i := Except.ok.inj (hj.symm.trans h)
    exact hspec
  · rw [decodeCommand_of_not_mem hv] at h
    exact nomatch h

/-! ### Writes and reads -/

/-- An instruction read from a write is well-formed, and is written as this write if its value fits. -/
theorem decodeWrite_eq_ok {n : Size} {off : BitVec 6} {v : Word32} {i : Instr} (h : decodeWrite n off v = .ok i) :
    i.wf = true ∧ (n.fits v = true → encode i = memWrite off n v) := by
  unfold decodeWrite at h
  split at h
  next hcmd =>
    obtain ⟨rfl, rfl⟩ := hcmd
    obtain ⟨hwf, henc⟩ := decodeCommand_eq_ok h
    exact ⟨hwf, fun _ => henc⟩
  next =>
    split_ifs at h with hk hiv hd
    all_goals
      cases h
      subst off
      exact ⟨fits_writeValue n v, fun hfits => by rw [writeValue_of_fits hfits, encode]⟩

/-- An instruction read from a read is well-formed and is issued as this read. -/
theorem decodeRead_eq_ok {n : Size} {off : BitVec 6} {i : Instr} (h : decodeRead n off = .ok i) :
    i.wf = true ∧ encode i = memRead off n := by
  unfold decodeRead at h
  split_ifs at h with hpop hid hparam hstatus hlen
  case pos =>
    cases h
    subst hpop
    exact ⟨rfl, rfl⟩
  all_goals
    cases h
    obtain ⟨rfl, rfl⟩ := ‹off = _ ∧ n = .b4›
    exact ⟨rfl, rfl⟩

/-- A write is refused for its offset and size, or as a `CMD` write for its value (R103). -/
theorem decodeWrite_eq_error_iff {n : Size} {off : BitVec 6} {v : Word32} {e : DecodeError} :
    decodeWrite n off v = .error e ↔
      e = .illegalCommand ∧ (off = 0x08 ∧ n = .b4) ∧ v ∉ commandValues ∨
      e = .illAddressedWrite ∧ ¬ (off = 0x08 ∧ n = .b4 ∨ off ∈ [0x10#6, 0x14#6, 0x18#6]) := by
  unfold decodeWrite
  split
  next hcmd => simp [decodeCommand_eq_error_iff, hcmd]
  next hcmd =>
    split_ifs with hk hiv hd
    · simp [hk]
    · simp [hiv]
    · simp [hd]
    · have hports : off ∉ [0x10#6, 0x14#6, 0x18#6] := by simpa using ⟨hk, hiv, hd⟩
      simp only [hcmd, hports, Except.error.injEq, false_and, and_false, false_or, or_self, not_false_eq_true, and_true,
        eq_comm]

/-- A read is refused for its offset and size only (R103). -/
theorem decodeRead_eq_error_iff {n : Size} {off : BitVec 6} {e : DecodeError} :
    decodeRead n off = .error e ↔
      e = .illAddressedRead ∧ ¬ (off ∈ [0x00#6, 0x04#6, 0x0C#6, 0x20#6] ∧ n = .b4 ∨ off = 0x1C) := by
  unfold decodeRead
  split_ifs with hpop hid hparam hstatus hlen
  · simp [hpop]
  · simp [hid]
  · simp [hparam]
  · simp [hstatus]
  · simp [hlen]
  · simp only [Except.error.injEq, List.mem_cons, List.not_mem_nil, or_false, eq_comm (b := e)]
    tauto

/-! ### The whole decoder -/

theorem decode_of_no_size {t : Descriptor} (h : Descriptor.sz t = 3) : decode t = .error .notATransaction := by
  rw [decode, sizeOfField_eq_none_iff.mpr h]

/-- The three kinds of descriptor: no transaction, a write, a read (R91). -/
theorem decode_cases (t : Descriptor) :
    Descriptor.sz t = 3 ∨ ∃ n, Descriptor.sz t = sizeField n ∧
      (Descriptor.isWrite t = true ∧ decode t = decodeWrite n (Descriptor.off t) (Descriptor.data t) ∨
        Descriptor.isWrite t = false ∧ decode t = decodeRead n (Descriptor.off t)) := by
  cases hs : sizeOfField (Descriptor.sz t) with
  | none => exact .inl (sizeOfField_eq_none_iff.mp hs)
  | some n =>
    refine .inr ⟨n, sizeField_of_sizeOfField hs, ?_⟩
    cases hw : Descriptor.isWrite t <;> simp [decode, hs, hw]

theorem wellAddressed_write_iff {t : Descriptor} {n : Size} (hw : Descriptor.isWrite t = true)
    (hn : Descriptor.sz t = sizeField n) :
    wellAddressed t ↔
      Descriptor.off t = 0x08 ∧ n = .b4 ∨ Descriptor.off t ∈ [0x10#6, 0x14#6, 0x18#6] := by
  rw [wellAddressed, if_pos hw, hn, sizeField_eq_two_iff, and_iff_left (sizeField_ne_three n)]

theorem wellAddressed_read_iff {t : Descriptor} {n : Size} (hr : Descriptor.isWrite t = false)
    (hn : Descriptor.sz t = sizeField n) :
    wellAddressed t ↔
      Descriptor.off t ∈ [0x00#6, 0x04#6, 0x0C#6, 0x20#6] ∧ n = .b4 ∨ Descriptor.off t = 0x1C := by
  rw [wellAddressed, if_neg (ne_true_of_eq_false hr), hn, sizeField_eq_two_iff,
    and_iff_left (sizeField_ne_three n)]

/-! ### The step on a transaction that is no instruction -/

theorem step_undecoded {s : State} {t : Descriptor} {rest : List Event} {e : DecodeError}
    (hs : s.inputs = .transaction t :: rest) (he : decode t = .error e) :
    step s = execUndecoded e { s with inputs := rest } := by
  have htail : s.inputs.tail = rest := by rw [hs, List.tail_cons]
  rw [step_transaction (nextEvent_cons hs), execTransaction_undecoded he, takeEvent_of_tail htail]

/-! ### The statements -/

/-- Settles O3: a write and a read are each put together again from their fields. -/
theorem encodeDecodeRoundTrip : Obligations.EncodeDecodeRoundTrip := by
  intro t i hi
  rcases decode_cases t with hsz | ⟨n, hn, ⟨hw, hdecode⟩ | ⟨hr, hdecode⟩⟩
  · rw [decode_of_no_size hsz] at hi
    exact nomatch hi
  · obtain ⟨hwf, henc⟩ := decodeWrite_eq_ok (hdecode ▸ hi)
    refine ⟨hwf, fun hcanonical => ?_⟩
    rw [henc (fits_data_of_canonical hw hn hcanonical), memWrite_fields hw hn]
  · obtain ⟨hwf, henc⟩ := decodeRead_eq_ok (hdecode ▸ hi)
    refine ⟨hwf, fun hcanonical => ?_⟩
    rw [canonical, if_neg (ne_true_of_eq_false hr)] at hcanonical
    rw [henc, memRead_fields hr hn hcanonical]

/-- Settles O5: each kind of descriptor has its own refusals. -/
theorem undecodedDescriptorsAreClassified : Obligations.UndecodedDescriptorsAreClassified := by
  intro t
  rcases decode_cases t with hsz | ⟨n, hn, ⟨hw, hdecode⟩ | ⟨hr, hdecode⟩⟩
  · simp [decode_of_no_size hsz, hsz]
  · have hsize := sizeField_ne_three n
    simp only [hdecode, decodeWrite_eq_error_iff, wellAddressed_write_iff hw hn, hw, hn, hsize, sizeField_eq_two_iff,
      reduceCtorEq, false_and, true_and, or_false, false_or, not_false_eq_true, ne_eq, iff_self]
    rw [and_assoc, and_left_comm]
  · have hsize := sizeField_ne_three n
    simp only [hdecode, decodeRead_eq_error_iff, wellAddressed_read_iff hr hn, hr, hn, hsize, reduceCtorEq, false_and,
      true_and, not_false_eq_true, ne_eq, and_self]

/-- Settles O7: fault entry, and what `FAULT` mode ignores, leave the events still to come as they are. -/
theorem stepAnswersUndecodedTransactions : Obligations.StepAnswersUndecodedTransactions := by
  intro s t rest hs
  refine ⟨fun he => step_undecoded hs he, fun hm => ?_, fun hm => ?_⟩
  · have hlive {r k} : unlessFaulted r { s with inputs := rest } k = k := unlessFaulted_live hm
    exact ⟨fun he => (step_undecoded hs he).trans hlive, fun he => (step_undecoded hs he).trans hlive,
      fun he => (step_undecoded hs he).trans hlive⟩
  · have hignored {r k} : unlessFaulted r { s with inputs := rest } k = reply r { s with inputs := rest } :=
      unlessFaulted_faulted hm
    exact ⟨fun he => (step_undecoded hs he).trans hignored, fun he => (step_undecoded hs he).trans hignored,
      fun he => (step_undecoded hs he).trans hignored⟩

end Sys2Proof.Machine
end

section
/-! PROOFS. The ports: where a push stores its lanes, what a pop returns and leaves to be read, and a wide push as four
narrow ones. -/

namespace Sys2Proof.Machine

/-! ### Pushes -/

theorem pushedCount_toNat (c : BitVec 8) (n : Size) : (pushedCount c n).toNat = min (c.toNat + n.bytes) 255 :=
  countRun_toNat c n.bytes

/-- A counter saturates above a block, so it reaches a block exactly when the bytes pushed do (R132, R187). -/
theorem block_le_pushedCount_iff (c : BitVec 8) (n : Size) :
    64 ≤ (pushedCount c n).toNat ↔ 64 ≤ c.toNat + n.bytes := by
  rw [pushedCount_toNat]
  omega

/-- The closed form of a push of data, before the job is latched (R186). -/
theorem foldl_pushBufByte_lanes (n : Size) (v : Word32) (s : State) :
    (lanes n v).foldl pushBufByte s =
      { s with buf := pushedBytes s.buf s.bufcnt.toNat n v, bufcnt := pushedCount s.bufcnt n } := by
  rw [foldl_pushBufByte, storeRun_lanes, countRun_lanes]

/-! ### The value of a pop -/

/-- Bit `i` of the value returned is bit `i mod 8` of byte `i / 8` of the sequence (R63). -/
theorem getLsbD_fromLanes (l : List Byte) (i : Nat) :
    (fromLanes l).getLsbD i = (decide (i < 32) && (l.getD (i / 8) 0).getLsbD (i % 8)) := by
  induction l generalizing i with
  | nil => simp [fromLanes]
  | cons b bs ih =>
    rw [fromLanes, BitVec.getLsbD_or, BitVec.getLsbD_setWidth, BitVec.getLsbD_shiftLeft, ih]
    by_cases hlow : i < 8
    · simp [hlow, Nat.div_eq_of_lt hlow, Nat.mod_eq_of_lt hlow]
    · have hdiv : i / 8 = (i - 8) / 8 + 1 := by omega
      have hmod : i % 8 = (i - 8) % 8 := by omega
      have hbyte : b.getLsbD i = false := BitVec.getLsbD_of_ge b i (by omega)
      by_cases hi : i < 32
      · have hi' : i - 8 < 32 := by omega
        simp [hlow, hi, hi', hbyte, hdiv, hmod]
      · simp [hi]

theorem lane_fromLanes (l : List Byte) {j : Nat} (h : j < 4) : lane (fromLanes l) j = l.getD j 0 := by
  apply BitVec.eq_of_getLsbD_eq
  intro i hi
  have hword : 8 * j + i < 32 := by omega
  have hdiv : (8 * j + i) / 8 = j := by omega
  have hmod : (8 * j + i) % 8 = i := by omega
  rw [lane, BitVec.getLsbD_extractLsb', getLsbD_fromLanes, hdiv, hmod]
  simp [hi, hword]

/-- The bits above the bytes of the sequence are zero (R63). -/
theorem fromLanes_lt (l : List Byte) : (fromLanes l).toNat < 2 ^ (8 * l.length) := by
  apply Nat.lt_pow_two_of_testBit
  intro i hi
  have hpast : l.length ≤ i / 8 := by omega
  rw [BitVec.testBit_toNat, getLsbD_fromLanes, List.getD_eq_default _ _ hpast]
  simp

/-- The lanes of the value put together from `n` bytes are these bytes (R63). -/
theorem lanes_fromLanes {n : Size} {l : List Byte} (h : l.length = n.bytes) : lanes n (fromLanes l) = l := by
  have hn := size_bytes_le n
  apply List.ext_getElem
  · rw [length_lanes, h]
  · intro j hj hl
    have hj4 : j < 4 := by omega
    simp [lanes, lane_fromLanes l hj4, hl]

/-! ### Pops -/

@[simp] theorem length_popBytes (n : Size) (s : State) : (popBytes n s).length = n.bytes := by
  simp [popBytes]

theorem getElem_popBytes (n : Size) (s : State) (j : Nat) (h : j < (popBytes n s).length) :
    (popBytes n s)[j] = byteAt s.obuf (s.ord.toNat + j) := by
  simp [popBytes]

theorem byteAt_eq_getElem {n : Nat} (a : Bytes n) {i : Nat} (h : i < n) : byteAt a i = a[i] := by
  simp [byteAt, h]

/-- Lane `j` of the value a `POP` returns (R190). -/
theorem lane_popBytes {n : Size} (s : State) {j : Nat} (h : j < n.bytes) :
    lane (fromLanes (popBytes n s)) j = byteAt s.obuf (s.ord.toNat + j) := by
  have hn := size_bytes_le n
  have hj : j < (popBytes n s).length := by rwa [length_popBytes]
  rw [lane_fromLanes _ (by omega), List.getD_eq_getElem _ _ hj, getElem_popBytes]

/-- The output pointer after a pop, in one equation (R190). -/
theorem advanceOutput_eq (n : Size) (s : State) :
    advanceOutput n s = { s with
      olen := if s.ord.toNat + n.bytes = s.olen.toNat then 0 else s.olen
      ord := if s.ord.toNat + n.bytes = s.olen.toNat then 0 else s.ord + BitVec.ofNat 7 n.bytes } := by
  rcases advanceOutput_cases n s with ⟨hlast, h⟩ | ⟨hmore, h⟩
  · rw [h, if_pos hlast, if_pos hlast]
  · rw [h, if_neg hmore, if_neg hmore, BitVec.ofNat_add, BitVec.ofNat_toNat, BitVec.setWidth_eq]

theorem length_unread {s : State} (h : s.outputWithin) : s.unread.length = s.oavail := by
  obtain ⟨-, holen, -⟩ := h
  rw [State.unread, List.length_drop, List.length_take, Vector.length_toList, Nat.min_eq_left holen, State.oavail]

theorem getElem_unread (s : State) (j : Nat) (h : j < s.unread.length) :
    s.unread[j] = byteAt s.obuf (s.ord.toNat + j) := by
  have hj : s.ord.toNat + j < 64 := by
    simp only [State.unread, List.length_drop, List.length_take, Vector.length_toList] at h
    omega
  rw [byteAt_eq_getElem _ hj]
  simp [State.unread]

/-- The bytes a `POP` returns are the front of the unread output (R72). -/
theorem popBytes_eq_take {n : Size} {s : State} (h : s.outputWithin) (havail : n.bytes ≤ s.oavail) :
    popBytes n s = s.unread.take n.bytes := by
  apply List.ext_getElem
  · rw [length_popBytes, List.length_take, length_unread h, Nat.min_eq_left havail]
  · intro j hj hunread
    rw [getElem_popBytes, List.getElem_take, getElem_unread]

/-- What a `POP` leaves to be read (R72, R190). -/
theorem unread_advanceOutput {n : Size} {s : State} (h : s.outputWithin) :
    (advanceOutput n s).unread = s.unread.drop n.bytes := by
  rcases advanceOutput_cases n s with ⟨hlast, heq⟩ | ⟨-, heq⟩
  · have hall : s.unread.length ≤ n.bytes := by
      rw [length_unread h, State.oavail]
      omega
    rw [heq, List.drop_of_length_le hall]
    rfl
  · obtain ⟨hord, holen, -⟩ := h
    have hn := size_bytes_le n
    have hnew : (BitVec.ofNat 7 (s.ord.toNat + n.bytes)).toNat = s.ord.toNat + n.bytes := by
      rw [BitVec.toNat_ofNat]
      omega
    rw [heq, State.unread, State.unread, List.drop_drop, hnew]

/-! ### A wide push -/

/-- The one lane of a byte written as a 1-byte value (R63). -/
theorem lanes_b1_setWidth (b : Byte) : lanes .b1 (b.setWidth 32) = [b] := by
  have hlane : lane (b.setWidth 32) 0 = b := by
    apply BitVec.eq_of_getLsbD_eq
    intro i hi
    simp [lane, hi]
    omega
  exact congrArg (fun c => [c]) hlane

theorem lanes_b4 (v : Word32) :
    lanes .b4 v = [v.extractLsb' 0 8, v.extractLsb' 8 8, v.extractLsb' 16 8, v.extractLsb' 24 8] := rfl

section
variable {port : Size → Word32 → Instr} {push : State → Byte → State}

/-- A port whose `requires` line wants the engine idle, and whose byte operation keeps `JOB` and `MODE` and does not read
the value returned: four bytes pushed one by one are the same as a word pushed at once (R73). -/
theorem fourNarrowPushes
    (hexec : ∀ n v s, s.job = .none → s.mode = .idle → exec (port n v) s = reply none ((lanes n v).foldl push s))
    (hjob : ∀ s b, (push s b).job = s.job) (hmode : ∀ s b, (push s b).mode = s.mode)
    (hresp : ∀ s b, push { s with resp := none } b = { push s b with resp := none })
    {s : State} (v : Word32) (hj : s.job = .none) (hm : s.mode = .idle) :
    ∃ a b c d : State,
      exec (port .b1 (v.extractLsb' 0 8 |>.setWidth 32)) s = .next a ∧
      exec (port .b1 (v.extractLsb' 8 8 |>.setWidth 32)) a = .next b ∧
      exec (port .b1 (v.extractLsb' 16 8 |>.setWidth 32)) b = .next c ∧
      exec (port .b1 (v.extractLsb' 24 8 |>.setWidth 32)) c = .next d ∧
      exec (port .b4 v) s = .next d := by
  have hone (b : Byte) (s : State) (hj : s.job = .none) (hm : s.mode = .idle) :
      exec (port .b1 (b.setWidth 32)) s = .next { push s b with resp := none } := by
    rw [hexec _ _ s hj hm, lanes_b1_setWidth]
    rfl
  refine ⟨_, _, _, _, hone _ s hj hm, hone _ _ ?_ ?_, hone _ _ ?_ ?_, hone _ _ ?_ ?_, ?wide⟩
  case wide =>
    rw [hexec _ _ s hj hm, lanes_b4]
    simp only [List.foldl_cons, List.foldl_nil, reply, hresp]
  all_goals simp only [hjob, hmode, hj, hm]

end

/-! ### The statements -/

/-- Settles O21: the run of pushes in closed form. -/
theorem pushkStoresItsLanes : Obligations.PushkStoresItsLanes := by
  intro s n v hj hm
  rw [exec_of_admits (i := .pushk n v) ⟨hj, hm⟩, admittedEffect, foldl_pushKeyByte, storeRun_lanes, countRun_lanes]
  rfl

/-- Settles O22: the run of pushes in closed form. -/
theorem pushivStoresItsLanes : Obligations.PushivStoresItsLanes := by
  intro s n v hj hm
  rw [exec_of_admits (i := .pushiv n v) ⟨hj, hm⟩, admittedEffect, foldl_pushIvByte, storeRun_lanes, countRun_lanes]
  rfl

/-- Settles O23: the push is admitted, and the job is latched when the count reaches a block outside `IDLE` mode. -/
theorem pushdStoresItsLanesAndLatchesBlock : Obligations.PushdStoresItsLanesAndLatchesBlock := by
  intro s n v hj hmode
  have hadmits : Admits (.pushd n v) s := by
    rcases hmode with hidle | ⟨hopen, hroom⟩
    · exact ⟨by rw [hidle]; exact nofun, hj, fun hstream => by simp [State.streaming, hidle] at hstream⟩
    · exact ⟨ne_fault_of_open hopen, hj, fun _ => hroom⟩
  rw [exec_of_admits hadmits, admittedEffect, foldl_pushBufByte_lanes]
  by_cases hblock : s.mode ≠ .idle ∧ 64 ≤ s.bufcnt.toNat + n.bytes
  · obtain ⟨hbusy, hfull⟩ := hblock
    obtain ⟨hopen, -⟩ := hmode.resolve_left hbusy
    have hcount : 64 ≤ (pushedCount s.bufcnt n).toNat := (block_le_pushedCount_iff s.bufcnt n).mpr hfull
    rw [latchBlock_latches (s := { s with buf := _, bufcnt := pushedCount s.bufcnt n }) hopen hcount,
      if_pos ⟨hbusy, hfull⟩]
    rfl
  · have hwaits : s.mode = .enc ∨ s.mode = .dec → (pushedCount s.bufcnt n).toNat < 64 := fun hopen => by
      rw [← Nat.not_le, block_le_pushedCount_iff]
      exact fun hfull => hblock ⟨by rcases hopen with h | h <;> simp [h], hfull⟩
    rw [latchBlock_waits (s := { s with buf := _, bufcnt := pushedCount s.bufcnt n }) hwaits, if_neg hblock, ← hj]
    rfl

/-- Settles O25: the value is put together from the bytes at the output pointer. -/
theorem popReturnsTheNextBytes : Obligations.PopReturnsTheNextBytes := by
  intro s n hm hout havail
  refine ⟨fromLanes (popBytes n s), ?_, fun j hj => ?_, ?_⟩
  · rw [exec_of_admits (i := .pop n) ⟨hm, havail⟩, admittedEffect, advanceOutput_eq]
    rfl
  · obtain ⟨-, holen, -⟩ := hout
    have hpos : s.ord.toNat + j < 64 := by
      rw [State.oavail] at havail
      omega
    rw [lane_popBytes s hj, byteAt_eq_getElem _ hpos, Vector.getElem?_eq_getElem hpos]
  · have hlt := fromLanes_lt (popBytes n s)
    rwa [length_popBytes] at hlt

/-- Settles O26: the front of the unread output, and the rest of it. -/
theorem popTakesTheFrontOfTheOutput : Obligations.PopTakesTheFrontOfTheOutput := by
  intro s t n hm hout havail ht
  rw [exec_of_admits (i := .pop n) ⟨hm, havail⟩, reply_eq_next] at ht
  refine ⟨fromLanes (popBytes n s), by rw [ht]; rfl, ?_⟩
  have hrest : t.unread = s.unread.drop n.bytes := by
    rw [← unread_advanceOutput hout, ht]
    rfl
  rw [lanes_fromLanes (length_popBytes n s), popBytes_eq_take hout havail, hrest, List.take_append_drop]

/-- Settles O27: the key port and the IV port are each such a push. -/
theorem widePushIsFourBytePushes : Obligations.WidePushIsFourBytePushes := by
  intro s v hj hm
  obtain ⟨a, b, c, d, hkey⟩ := fourNarrowPushes (port := .pushk) (push := pushKeyByte)
    (fun n v s hj hm => exec_of_admits (i := .pushk n v) ⟨hj, hm⟩)
    pushKeyByte_job pushKeyByte_mode (fun _ _ => rfl) v hj hm
  obtain ⟨a', b', c', d', hiv⟩ := fourNarrowPushes (port := .pushiv) (push := pushIvByte)
    (fun n v s hj hm => exec_of_admits (i := .pushiv n v) ⟨hj, hm⟩)
    pushIvByte_job pushIvByte_mode (fun _ _ => rfl) v hj hm
  obtain ⟨h1, h2, h3, h4, hwide⟩ := hkey
  exact ⟨a, b, c, d, a', b', c', d', h1, h2, h3, h4, hwide, hiv⟩

end Sys2Proof.Machine
end

section
/-! PROOFS. The encoder against the decoder, and the rows of the opcode map: which field each mask looks at, and the
instruction that a selected descriptor decodes to. -/

namespace Sys2Proof.Machine

/-! ### Decoding a transaction put together from its fields -/

theorem sizeOfField_sizeField (n : Size) : sizeOfField (sizeField n) = some n := by
  cases n <;> rfl

theorem decode_of_write {t : Descriptor} {n : Size} (hw : Descriptor.isWrite t = true)
    (hn : Descriptor.sz t = sizeField n) : decode t = decodeWrite n (Descriptor.off t) (Descriptor.data t) := by
  rw [decode, hn, sizeOfField_sizeField, hw]
  rfl

theorem decode_of_read {t : Descriptor} {n : Size} (hr : Descriptor.isWrite t = false)
    (hn : Descriptor.sz t = sizeField n) : decode t = decodeRead n (Descriptor.off t) := by
  rw [decode, hn, sizeOfField_sizeField, hr]
  rfl

theorem decode_memWrite (off : BitVec 6) (n : Size) (v : Word32) :
    decode (memWrite off n v) = decodeWrite n off v := by
  have hw : Descriptor.isWrite (memWrite off n v) = true := descriptor_isWrite ..
  rw [decode_of_write hw (descriptor_sz ..), memWrite, descriptor_off, descriptor_data]

theorem decode_memRead (off : BitVec 6) (n : Size) : decode (memRead off n) = decodeRead n off := by
  have hr : Descriptor.isWrite (memRead off n) = false := descriptor_isWrite ..
  rw [decode_of_read hr (descriptor_sz ..), memRead, descriptor_off]

theorem decodeWrite_keyin (n : Size) (v : Word32) : decodeWrite n 0x10 v = .ok (.pushk n (writeValue n v)) := rfl

theorem decodeWrite_ivin (n : Size) (v : Word32) : decodeWrite n 0x14 v = .ok (.pushiv n (writeValue n v)) := rfl

theorem decodeWrite_din (n : Size) (v : Word32) : decodeWrite n 0x18 v = .ok (.pushd n (writeValue n v)) := rfl

theorem decodeRead_dout (n : Size) : decodeRead n 0x1C = .ok (.pop n) := rfl

/-! ### Masks and patterns, field by field -/

theorem descriptor_dir (d : BitVec 1) (s : BitVec 2) (o : BitVec 6) (v : Word32) :
    (descriptor d s o v).extractLsb' 40 1 = d := by
  have hbit : ∀ b c : BitVec 1, (b == 1#1) = (c == 1#1) → b = c := by decide
  exact hbit _ _ (descriptor_isWrite d s o v)

theorem descriptor_inj {d d' : BitVec 1} {s s' : BitVec 2} {o o' : BitVec 6} {v v' : Word32} :
    descriptor d s o v = descriptor d' s' o' v' ↔ d = d' ∧ s = s' ∧ o = o' ∧ v = v' := by
  constructor
  · intro h
    refine ⟨?_, ?_, ?_, ?_⟩
    · simpa only [descriptor_dir] using congrArg (BitVec.extractLsb' 40 1) h
    · simpa only [descriptor_sz] using congrArg Descriptor.sz h
    · simpa only [descriptor_off] using congrArg Descriptor.off h
    · simpa only [descriptor_data] using congrArg Descriptor.data h
  · rintro ⟨rfl, rfl, rfl, rfl⟩
    rfl

theorem descriptor_and (d d' : BitVec 1) (s s' : BitVec 2) (o o' : BitVec 6) (v v' : Word32) :
    descriptor d s o v &&& descriptor d' s' o' v' = descriptor (d &&& d') (s &&& s') (o &&& o') (v &&& v') := by
  apply BitVec.eq_of_getLsbD_eq
  intro i hi
  simp only [BitVec.getLsbD_and, descriptor_getLsbD]
  split_ifs <;> rfl

theorem isWrite_eq_iff {t : Descriptor} {w : Bool} :
    Descriptor.isWrite t = w ↔ t.extractLsb' 40 1 = BitVec.ofBool w := by
  have hbit : ∀ (b : BitVec 1) (w : Bool), (b == 1#1) = w ↔ b = BitVec.ofBool w := by decide
  exact hbit _ w

/-- A mask and a pattern are compared with a descriptor field by field (R91, R94). -/
theorem rowSelects_iff_fields {i : Instr} {t : Descriptor} {d dm : BitVec 1} {s sm : BitVec 2} {o om : BitVec 6}
    {v vm : Word32} (hmask : tableMask i = descriptor dm sm om vm) (hpattern : tablePattern i = descriptor d s o v) :
    rowSelects i t = true ↔
      t.extractLsb' 40 1 &&& dm = d ∧ Descriptor.sz t &&& sm = s ∧ Descriptor.off t &&& om = o ∧
        Descriptor.data t &&& vm = v := by
  rw [rowSelects, beq_iff_eq, hmask, hpattern, ← descriptor_inj, ← descriptor_and, descriptor_fields]

/-- The row of a command looks at every bit (R94). -/
theorem rowSelects_command_iff {i : Instr} {t : Descriptor} (hmask : tableMask i = BitVec.allOnes 41) :
    rowSelects i t = true ↔ t = tablePattern i := by
  rw [rowSelects, beq_iff_eq, hmask, BitVec.and_allOnes]

/-- The row of a port looks at direction and offset (R94). -/
theorem rowSelects_port_iff {i : Instr} {t : Descriptor} {w : Bool} {o : BitVec 6}
    (hmask : tableMask i = 0x13F00000000)
    (hpattern : tablePattern i = descriptor (BitVec.ofBool w) 0#2 o 0#32) :
    rowSelects i t = true ↔ Descriptor.isWrite t = w ∧ Descriptor.off t = o := by
  have hfields : tableMask i = descriptor (BitVec.allOnes 1) 0#2 (BitVec.allOnes 6) 0#32 := hmask
  simp only [rowSelects_iff_fields hfields hpattern, isWrite_eq_iff, BitVec.and_allOnes, BitVec.and_zero, true_and,
    and_true]

/-- The row of a register read looks at direction, size and offset (R94). -/
theorem rowSelects_register_iff {i : Instr} {t : Descriptor} {o : BitVec 6}
    (hmask : tableMask i = 0x1FF00000000)
    (hpattern : tablePattern i = descriptor (BitVec.ofBool false) (sizeField .b4) o 0#32) :
    rowSelects i t = true ↔
      Descriptor.isWrite t = false ∧ Descriptor.sz t = sizeField .b4 ∧ Descriptor.off t = o := by
  have hfields : tableMask i = descriptor (BitVec.allOnes 1) (BitVec.allOnes 2) (BitVec.allOnes 6) 0#32 := hmask
  simp only [rowSelects_iff_fields hfields hpattern, isWrite_eq_iff, BitVec.and_allOnes, BitVec.and_zero, and_true]

/-! ### The encoder, then the decoder -/

/-- Settles O2: the transaction of an instruction has the offset, size and direction of its port or register, and a
value that fits is not cut. -/
theorem decodeEncodeRoundTrip : Obligations.DecodeEncodeRoundTrip := by
  intro i hwf
  cases i with
  | reset | abort | clrkey | clriv | fwd | bwd | encStart | decStart | final => exact decode_memWrite 0x08 .b4 _
  | pushk n v => rw [encode, decode_memWrite, decodeWrite_keyin, writeValue_of_fits hwf]
  | pushiv n v => rw [encode, decode_memWrite, decodeWrite_ivin, writeValue_of_fits hwf]
  | pushd n v => rw [encode, decode_memWrite, decodeWrite_din, writeValue_of_fits hwf]
  | pop n => rw [encode, decode_memRead, decodeRead_dout]
  | rdid | rdparam | rdstatus | rdlen => exact decode_memRead _ .b4

/-! ### From the decoder to the opcode map -/

/-- The row of a command is its one word, every bit of it (R92, R94). -/
theorem decodeCommand_row {v : Word32} {i : Instr} (h : decodeCommand v = .ok i) :
    tableMask i = BitVec.allOnes 41 ∧ tablePattern i = encode i := by
  by_cases hv : v ∈ commandValues
  · simp only [commandValues, List.mem_cons, List.not_mem_nil, or_false] at hv
    rcases hv with rfl | rfl | rfl | rfl | rfl | rfl | rfl | rfl | rfl
    all_goals
      obtain rfl := Except.ok.inj h
      exact ⟨rfl, rfl⟩
  · rw [decodeCommand_of_not_mem hv] at h
    exact nomatch h

/-- A write that decodes to an instruction is selected by the row of it (R94). -/
theorem rowSelects_of_decodeWrite {t : Descriptor} {n : Size} {i : Instr} (hw : Descriptor.isWrite t = true)
    (hn : Descriptor.sz t = sizeField n) (h : decodeWrite n (Descriptor.off t) (Descriptor.data t) = .ok i) :
    rowSelects i t = true := by
  obtain ⟨-, hencode⟩ := decodeWrite_eq_ok h
  unfold decodeWrite at h
  split_ifs at h with hcmd hkey hiv hdata
  · obtain ⟨-, rfl⟩ := hcmd
    obtain ⟨hmask, hpattern⟩ := decodeCommand_row h
    rw [rowSelects_command_iff hmask, hpattern, hencode (decide_eq_true (Descriptor.data t).isLt),
      memWrite_fields hw hn]
  · cases h
    exact (rowSelects_port_iff rfl rfl).mpr ⟨hw, hkey⟩
  · cases h
    exact (rowSelects_port_iff rfl rfl).mpr ⟨hw, hiv⟩
  · cases h
    exact (rowSelects_port_iff rfl rfl).mpr ⟨hw, hdata⟩

/-- A read that decodes to an instruction is selected by the row of it (R94). -/
theorem rowSelects_of_decodeRead {t : Descriptor} {n : Size} {i : Instr} (hr : Descriptor.isWrite t = false)
    (hn : Descriptor.sz t = sizeField n) (h : decodeRead n (Descriptor.off t) = .ok i) : rowSelects i t = true := by
  unfold decodeRead at h
  split_ifs at h with hpop hid hparam hstatus hlen
  case pos =>
    cases h
    exact (rowSelects_port_iff rfl rfl).mpr ⟨hr, hpop⟩
  all_goals
    cases h
    obtain ⟨hoff, rfl⟩ := ‹Descriptor.off t = _ ∧ n = .b4›
    exact (rowSelects_register_iff rfl rfl).mpr ⟨hr, hn, hoff⟩

theorem rowSelects_of_decode {t : Descriptor} {i : Instr} (h : decode t = .ok i) : rowSelects i t = true := by
  rcases decode_cases t with hsz | ⟨n, hn, ⟨hw, hdecode⟩ | ⟨hr, hdecode⟩⟩
  · rw [decode_of_no_size hsz] at h
    exact nomatch h
  · exact rowSelects_of_decodeWrite hw hn (hdecode ▸ h)
  · exact rowSelects_of_decodeRead hr hn (hdecode ▸ h)

/-! ### From the opcode map to the decoder -/

theorem decode_of_command_row {i : Instr} {t : Descriptor} (hwf : i.wf = true)
    (hmask : tableMask i = BitVec.allOnes 41) (hpattern : tablePattern i = encode i) (h : rowSelects i t = true) :
    decode t = .ok i := by
  rw [(rowSelects_command_iff hmask).mp h, hpattern, decodeEncodeRoundTrip i hwf]

/-- A register read is taken by its offset, whatever the data field holds (R94, log 5). -/
theorem decode_of_register_row {i : Instr} {t : Descriptor} {o : BitVec 6} (hread : decodeRead .b4 o = .ok i)
    (hmask : tableMask i = 0x1FF00000000)
    (hpattern : tablePattern i = descriptor (BitVec.ofBool false) (sizeField .b4) o 0#32) (h : rowSelects i t = true) :
    decode t = .ok i := by
  obtain ⟨hr, hn, hoff⟩ := (rowSelects_register_iff hmask hpattern).mp h
  rw [decode_of_read hr hn, hoff, hread]

/-- A write at a push port is taken by its offset, with the size and the value it has (R94). -/
theorem decode_of_push_row {i j : Instr} {t : Descriptor} {n : Size} {o : BitVec 6}
    (hwrite : decodeWrite n o (Descriptor.data t) = .ok j)
    (hmask : tableMask i = 0x13F00000000)
    (hpattern : tablePattern i = descriptor (BitVec.ofBool true) 0#2 o 0#32) (hn : Descriptor.sz t = sizeField n)
    (h : rowSelects i t = true) : decode t = .ok j := by
  obtain ⟨hw, hoff⟩ := (rowSelects_port_iff hmask hpattern).mp h
  rw [decode_of_write hw hn, hoff, hwrite]

/-- A descriptor that a row selects decodes to an instruction of this row (R94): a row fixes all that the decoder asks
for, but for the size at a port, which any size but 3 answers (R62). -/
theorem decode_of_rowSelects {i : Instr} {t : Descriptor} (hsz : Descriptor.sz t ≠ 3) (h : rowSelects i t = true) :
    ∃ j, decode t = .ok j ∧ tablePattern j = tablePattern i ∧ tableMask j = tableMask i := by
  obtain ⟨n, hn, -⟩ := (decode_cases t).resolve_left hsz
  cases i with
  | reset | abort | clrkey | clriv | fwd | bwd | encStart | decStart | final =>
    exact ⟨_, decode_of_command_row rfl rfl rfl h, rfl, rfl⟩
  | pushk => exact ⟨_, decode_of_push_row (decodeWrite_keyin n _) rfl rfl hn h, rfl, rfl⟩
  | pushiv => exact ⟨_, decode_of_push_row (decodeWrite_ivin n _) rfl rfl hn h, rfl, rfl⟩
  | pushd => exact ⟨_, decode_of_push_row (decodeWrite_din n _) rfl rfl hn h, rfl, rfl⟩
  | pop =>
    obtain ⟨hr, hoff⟩ := (rowSelects_port_iff (w := false) (o := 0x1C) rfl rfl).mp h
    exact ⟨.pop n, by rw [decode_of_read hr hn, hoff, decodeRead_dout], rfl, rfl⟩
  | rdid => exact ⟨_, decode_of_register_row (o := 0x00) rfl rfl rfl h, rfl, rfl⟩
  | rdparam => exact ⟨_, decode_of_register_row (o := 0x04) rfl rfl rfl h, rfl, rfl⟩
  | rdstatus => exact ⟨_, decode_of_register_row (o := 0x0C) rfl rfl rfl h, rfl, rfl⟩
  | rdlen => exact ⟨_, decode_of_register_row (o := 0x20) rfl rfl rfl h, rfl, rfl⟩

/-- Settles O4: one direction of the opcode map each. -/
theorem decoderAgreesWithOpcodeMap : Obligations.DecoderAgreesWithOpcodeMap := by
  intro t hsz
  exact ⟨fun _ h => rowSelects_of_decode h, fun _ h => decode_of_rowSelects hsz h⟩

/-! ### Words of the opcode map -/

/-- Settles O1: each word is the encoding of its instruction. -/
theorem decodeOfWrittenOutWords : Obligations.DecodeOfWrittenOutWords :=
  ⟨decodeEncodeRoundTrip .reset rfl, decodeEncodeRoundTrip .final rfl,
    decodeEncodeRoundTrip (.pushk .b4 0xDDDDDDDD) rfl, decodeEncodeRoundTrip (.pushd .b2 0x0100) rfl,
    decodeEncodeRoundTrip (.pop .b1) rfl, decodeEncodeRoundTrip .rdlen rfl⟩

end Sys2Proof.Machine
end

section
/-! PROOFS. Byte sequences under exclusive-or, the word operations and packings of SHA-256, its padding, and HMAC on the
keys of the engine. -/

namespace Sys2Proof.Machine

/-! ### Exclusive-or on byte sequences -/

theorem xorBytes_zero {n : Nat} (a : Bytes n) : xorBytes a (rep 0 n) = a := by
  ext1 i h
  rw [getElem_xorBytes, getElem_rep]
  exact BitVec.xor_zero

theorem xorBytes_comm {n : Nat} (a b : Bytes n) : xorBytes a b = xorBytes b a := by
  ext1 i h
  rw [getElem_xorBytes, getElem_xorBytes, BitVec.xor_comm]

theorem xorBytes_assoc {n : Nat} (a b c : Bytes n) : xorBytes (xorBytes a b) c = xorBytes a (xorBytes b c) := by
  ext1 i h
  simp only [getElem_xorBytes, BitVec.xor_assoc]

/-- Settles O45: each law holds at every index, where it is the law of the exclusive-or of two bytes. -/
theorem xorLaws : Obligations.XorLaws := fun _ a b c =>
  ⟨fun i h => getElem_xorBytes a b i h, xorBytes_self a, xorBytes_zero a, xorBytes_cancel a b, xorBytes_comm a b,
    xorBytes_assoc a b c⟩

/-! ### The word operations and the packing of words -/

/-- Below the width of a word, `rotr` is the rotation of the bit-vector library (R121). -/
theorem rotr_eq_rotateRight (x : Word32) {n : Nat} (h : n < 32) : rotr x n = x.rotateRight n := by
  rw [rotr, BitVec.rotateRight_def, Nat.mod_eq_of_lt h]

theorem rotr_toNat (x : Word32) (n : Nat) :
    (rotr x n).toNat = x.toNat / 2 ^ n ||| (x.toNat * 2 ^ (32 - n)) % 2 ^ 32 := by
  rw [rotr, BitVec.toNat_or, BitVec.toNat_ushiftRight, BitVec.toNat_shiftLeft, Nat.shiftRight_eq_div_pow,
    Nat.shiftLeft_eq]

/-- A byte appended at the low end: the value is that of a number in base 256. -/
theorem append_byte_toNat {n : Nat} (x : BitVec n) (b : Byte) : (x ++ b).toNat = x.toNat * 2 ^ 8 + b.toNat := by
  rw [BitVec.toNat_append, ← Nat.shiftLeft_add_eq_or_of_lt b.isLt, Nat.shiftLeft_eq]

/-- The value of `be32` (R122). -/
theorem packed_toNat (b0 b1 b2 b3 : Byte) :
    (b0 ++ b1 ++ b2 ++ b3 : Word32).toNat =
      b0.toNat * 2 ^ 24 + b1.toNat * 2 ^ 16 + b2.toNat * 2 ^ 8 + b3.toNat := by
  rw [append_byte_toNat, append_byte_toNat, append_byte_toNat]
  omega

/-- The value of byte `k` of a word, counted from the least significant (R9). -/
theorem extract_byte_toNat {n : Nat} (x : BitVec n) (k : Nat) :
    (x.extractLsb' (8 * k) 8).toNat = x.toNat / 256 ^ k % 256 := by
  rw [BitVec.extractLsb'_toNat, Nat.shiftRight_eq_div_pow, Nat.pow_mul]

theorem bytes32_eq (w : Word32) : bytes32 w =
    [w.extractLsb' (8 * 3) 8, w.extractLsb' (8 * 2) 8, w.extractLsb' (8 * 1) 8, w.extractLsb' (8 * 0) 8] := rfl

theorem be32Words_four (b0 b1 b2 b3 : Byte) : be32Words [b0, b1, b2, b3] = [b0 ++ b1 ++ b2 ++ b3] := rfl

theorem be32Words_bytes32 (w : Word32) : be32Words (bytes32 w) = [w] := by
  have hw := w.isLt
  have hpacked : w.extractLsb' (8 * 3) 8 ++ w.extractLsb' (8 * 2) 8 ++ w.extractLsb' (8 * 1) 8 ++
      w.extractLsb' (8 * 0) 8 = w := by
    apply BitVec.eq_of_toNat_eq
    rw [packed_toNat]
    simp only [extract_byte_toNat]
    omega
  rw [bytes32_eq, be32Words_four, hpacked]

theorem bytes32_packed (b0 b1 b2 b3 : Byte) : bytes32 (b0 ++ b1 ++ b2 ++ b3) = [b0, b1, b2, b3] := by
  have hbyte (k : Nat) (b : Byte)
      (h : (b0.toNat * 2 ^ 24 + b1.toNat * 2 ^ 16 + b2.toNat * 2 ^ 8 + b3.toNat) / 256 ^ k % 256 = b.toNat) :
      (b0 ++ b1 ++ b2 ++ b3 : Word32).extractLsb' (8 * k) 8 = b := by
    apply BitVec.eq_of_toNat_eq
    rw [extract_byte_toNat, packed_toNat, h]
  have h0 := b0.isLt
  have h1 := b1.isLt
  have h2 := b2.isLt
  have h3 := b3.isLt
  rw [bytes32_eq, hbyte 3 b0 (by omega), hbyte 2 b1 (by omega), hbyte 1 b2 (by omega), hbyte 0 b3 (by omega)]

/-- Settles O47: the rotation by its two shifts, the packing by the value of the packed word. -/
theorem wordOperationsRotateAndPack : Obligations.WordOperationsRotateAndPack :=
  ⟨fun x n _ hn => ⟨rotr_eq_rotateRight x hn, rotr_toNat x n⟩, be32Words_bytes32,
    fun b0 b1 b2 b3 =>
      ⟨b0 ++ b1 ++ b2 ++ b3, be32Words_four b0 b1 b2 b3, bytes32_packed b0 b1 b2 b3, packed_toNat b0 b1 b2 b3⟩⟩

/-! ### The padding of SHA-256 -/

@[simp] theorem length_be64 (n : Nat) : (be64 n).length = 8 := by
  simp [be64]

/-- Read most significant byte first, the first `k` bytes of `be64` are the number without its low `8 - k` bytes. -/
theorem be64_take_value {n k : Nat} (hn : n < 2 ^ 64) (hk : k ≤ 8) :
    ((be64 n).take k).foldl (fun a b => a * 256 + b.toNat) 0 = n / 256 ^ (8 - k) := by
  induction k with
  | zero => rw [List.take_zero, List.foldl_nil, Nat.div_eq_of_lt (by omega)]
  | succ k ih =>
    have hlen : k < (be64 n).length := by rw [length_be64]; omega
    have hbyte : (be64 n)[k].toNat = n / 256 ^ (7 - k) % 256 := by
      simp only [be64, List.getElem_map, List.getElem_range]
      rw [extract_byte_toNat, BitVec.toNat_ofNat, Nat.mod_eq_of_lt hn]
    have hlow : n / 256 ^ (8 - k) = n / 256 ^ (7 - k) / 256 := by
      rw [Nat.div_div_eq_div_mul, ← Nat.pow_succ, show 8 - k = 7 - k + 1 by omega]
    rw [List.take_succ_eq_append_getElem hlen, List.foldl_append, ih (by omega), List.foldl_cons, List.foldl_nil,
      hbyte, hlow, Nat.div_add_mod', show 8 - (k + 1) = 7 - k by omega]

/-- `be64` writes the whole number (R122). -/
theorem be64_value {n : Nat} (hn : n < 2 ^ 64) : (be64 n).foldl (fun a b => a * 256 + b.toNat) 0 = n := by
  have h := be64_take_value hn (Nat.le_refl 8)
  rwa [List.take_of_length_le (by rw [length_be64]), Nat.sub_self, Nat.pow_zero, Nat.div_one] at h

theorem length_paddedMessage (m : List Byte) :
    (paddedMessage m).length = m.length + 9 + (119 - m.length % 64) % 64 := by
  rw [paddedMessage]
  simp only [List.length_append, List.length_singleton, List.length_replicate, length_be64]
  omega

/-- The number of zeros brings the message, the byte `0x80` and the length to whole blocks (R125). -/
theorem length_paddedMessage_mod (m : List Byte) : (paddedMessage m).length % 64 = 0 := by
  rw [length_paddedMessage]
  omega

/-- Settles O46: the zeros are `(55 - len(M)) mod 64` in number. -/
theorem shaPaddingFillsWholeBlocks : Obligations.ShaPaddingFillsWholeBlocks := fun m hm =>
  ⟨(119 - m.length % 64) % 64, Nat.mod_lt _ (by decide), rfl, length_paddedMessage_mod m, be64_value (by omega)⟩

/-! ### HMAC on a 32-byte key -/

/-- A key of at most one block is not hashed: it is filled up with zeros (R129). -/
theorem hmacKeyBlock_of_short {key : List Byte} (h : key.length ≤ 64) : hmacKeyBlock key = fit 64 key := by
  rw [hmacKeyBlock, if_neg (by omega)]

/-- A pad under a 32-byte key: the key in its first half, its own bytes in the second (R130). -/
theorem xorBytes_hmacKeyBlock (k : Key) (v : Byte) :
    (xorBytes (hmacKeyBlock k.toList) (rep v 64)).toList = (xorBytes k (rep v 32)).toList ++ List.replicate 32 v := by
  rw [hmacKeyBlock_of_short (by rw [Vector.length_toList]; decide)]
  apply List.ext_getElem
  · simp
  · intro i hi _
    by_cases hkey : i < 32
    · simp [hkey]
    · rw [List.getElem_append_right (by simpa using hkey), List.getElem_replicate]
      simp [hkey]

/-- Settles O48: both pads of `HMAC` by the form of a pad under a 32-byte key. -/
theorem hmacOfA32ByteKey : Obligations.HmacOfA32ByteKey := by
  intro k m
  rw [hmac, xorBytes_hmacKeyBlock, xorBytes_hmacKeyBlock]

end Sys2Proof.Machine
end

section
/-! PROOFS. The Feistel transform: its rounds undo each other, so `forward` and `backward` are inverse; the commands and
the jobs that apply it. -/

namespace Sys2Proof.Machine

/-! ### The halves of a block -/

theorem getElem_splitBlock_left (b : Block) (i : Nat) (h : i < 32) : (splitBlock b).left[i] = b[i] :=
  Vector.getElem_ofFn h

theorem getElem_splitBlock_right (b : Block) (i : Nat) (h : i < 32) : (splitBlock b).right[i] = b[32 + i] :=
  Vector.getElem_ofFn h

theorem getElem_joinHalves_left (h : Halves) (i : Nat) (hi : i < 32) : (joinHalves h)[i] = h.left[i] :=
  Vector.getElem_append_left hi

theorem getElem_joinHalves_right (h : Halves) (i : Nat) (hi : i < 32) : (joinHalves h)[32 + i] = h.right[i] := by
  refine (Vector.getElem_append_right (xs := h.left) (ys := h.right) (by omega) (by omega)).trans ?_
  simp only [Nat.add_sub_cancel_left]

theorem splitBlock_joinHalves (h : Halves) : splitBlock (joinHalves h) = h := by
  have hleft : (splitBlock (joinHalves h)).left = h.left := by
    ext1 i hi
    rw [getElem_splitBlock_left, getElem_joinHalves_left]
  have hright : (splitBlock (joinHalves h)).right = h.right := by
    ext1 i hi
    rw [getElem_splitBlock_right, getElem_joinHalves_right]
  exact congrArg₂ Halves.mk hleft hright

theorem joinHalves_splitBlock (b : Block) : joinHalves (splitBlock b) = b := by
  ext1 i hi
  by_cases hleft : i < 32
  · rw [getElem_joinHalves_left _ i hleft, getElem_splitBlock_left]
  · obtain ⟨j, rfl⟩ := Nat.exists_eq_add_of_le (Nat.not_lt.mp hleft)
    rw [getElem_joinHalves_right _ j (by omega), getElem_splitBlock_right]

/-! ### Rounds that undo each other -/

/-- A round passes one half on unchanged, so the other round can compute the same mask and cancel it. -/
theorem backwardRound_forwardRound (key : Key) (h : Halves) (i : Fin 16) :
    backwardRound key (forwardRound key h i) i = h :=
  congrArg (Halves.mk · h.right) (xorBytes_cancel h.left _)

theorem forwardRound_backwardRound (key : Key) (h : Halves) (i : Fin 16) :
    forwardRound key (backwardRound key h i) i = h :=
  congrArg (Halves.mk h.left) (xorBytes_cancel h.right _)

/-- Steps are undone one by one, the last first. -/
theorem foldl_reverse_foldl {α β : Type} {f g : β → α → β} (hundo : ∀ x a, g (f x a) a = x) (l : List α)
    (x : β) : l.reverse.foldl g (l.foldl f x) = x := by
  induction l generalizing x with
  | nil => rfl
  | cons a l ih =>
    calc (a :: l).reverse.foldl g ((a :: l).foldl f x)
        = g (l.reverse.foldl g (l.foldl f (f x a))) a := by
          rw [List.reverse_cons, List.foldl_append, List.foldl_cons, List.foldl_cons, List.foldl_nil]
      _ = g (f x a) a := by rw [ih]
      _ = x := hundo x a

/-- A transform by rounds on the halves of a block is undone by the rounds that undo them, in the opposite order. -/
theorem joinHalves_foldl_cancel {f g : Halves → Fin 16 → Halves} (hundo : ∀ h i, g (f h i) i = h)
    (l : List (Fin 16)) (b : Block) :
    joinHalves (l.reverse.foldl g (splitBlock (joinHalves (l.foldl f (splitBlock b))))) = b := by
  rw [splitBlock_joinHalves, foldl_reverse_foldl hundo, joinHalves_splitBlock]

theorem backward_forward (key : Key) (b : Block) : backward key (forward key b) = b :=
  joinHalves_foldl_cancel (backwardRound_forwardRound key) roundIndices b

theorem forward_backward (key : Key) (b : Block) : forward key (backward key b) = b :=
  joinHalves_foldl_cancel (forwardRound_backwardRound key) roundIndices.reverse b

theorem forward_injective (key : Key) : Function.Injective (forward key) :=
  Function.LeftInverse.injective (backward_forward key)

/-! ### The jobs of the transform -/

theorem eq_bufBlock {s : State} {b : Block} (h : ∀ i (hi : i < 64), b[i] = s.buf[i]) : b = bufBlock s := by
  ext1 i hi
  rw [h i hi, getElem_bufBlock]

theorem engineStep_fwd {s : State} (hj : s.job = .fwd) (hm : s.mode = .idle) : engineStep s = jobFwd s := by
  simp only [engineStep, hj, hm]

theorem engineStep_bwd {s : State} (hj : s.job = .bwd) (hm : s.mode = .idle) : engineStep s = jobBwd s := by
  simp only [engineStep, hj, hm]

/-! ### The statements -/

/-- Settles O49: the rounds of either transform undo those of the other, in the opposite order. -/
theorem feistelInverseLaw : Obligations.FeistelInverseLaw := fun key b =>
  ⟨backward_forward key b, forward_backward key b⟩

/-- Settles O50: a function with an inverse on both sides is a bijection. -/
theorem forwardIsABijection : Obligations.ForwardIsABijection := fun key =>
  ⟨⟨forward_injective key, Function.RightInverse.surjective (forward_backward key)⟩, backward_forward key,
    forward_backward key, fun _ _ hne => (forward_injective key).ne hne⟩

/-- Settles O17: the checks pass, so the command completes with its job latched. -/
theorem transformCommandsLatchTheirJob : Obligations.TransformCommandsLatchTheirJob := by
  intro s hjob hmode hout hkey hbuf
  have hadmits : Admits .fwd s := ⟨⟨hjob, hmode, hout⟩, hkey, hbuf⟩
  exact ⟨exec_of_admits hadmits, exec_of_admits (i := .bwd) hadmits⟩

/-- Settles O28: in `IDLE` mode the engine's turn is the job, which emits the transform of the operand. -/
theorem transformJobsEmitTheTransform : Obligations.TransformJobsEmitTheTransform := by
  intro s b hb hm
  obtain rfl := eq_bufBlock hb
  refine ⟨fun hj => ?_, fun hj => ?_⟩
  · rw [engineStep_fwd hj hm, jobFwd, emitBlock]
  · rw [engineStep_bwd hj hm, jobBwd, emitBlock]

end Sys2Proof.Machine
end

section
/-! PROOFS. The blockizer; the `BLOCK` jobs; the port transactions that are not admitted; and a stream in progress on the
engine, which computes `encrypt` or `decrypt`. -/

namespace Sys2Proof.Machine

/-! ### The blockizer: whole blocks and a rest -/

/-- A byte sequence cut into whole blocks of `size` bytes and a rest that is shorter than a block (R180). -/
structure IsCut (size : Nat) (s : List Byte) (blocks : List (List Byte)) (rest : List Byte) : Prop where
  whole : ∀ b ∈ blocks, b.length = size
  short : rest.length < size
  joined : blocks.flatten ++ rest = s

/-- The rest as the blockizer gives it out at the end: one block, unless it is empty (R180). -/
def restBlock (rest : List Byte) : List (List Byte) := if rest = [] then [] else [rest]

theorem restBlock_nil : restBlock [] = [] := rfl

theorem restBlock_of_ne_nil {rest : List Byte} (h : rest ≠ []) : restBlock rest = [rest] := if_neg h

theorem flatten_restBlock (rest : List Byte) : (restBlock rest).flatten = rest := by
  by_cases h : rest = []
  · rw [h, restBlock_nil, List.flatten_nil]
  · rw [restBlock_of_ne_nil h, List.flatten_singleton]

theorem IsCut.nil {size : Nat} (h : 0 < size) : IsCut size [] [] [] := ⟨nofun, h, rfl⟩

/-- What the cut of a sequence leaves is cut on with what comes after it. -/
theorem IsCut.append {size : Nat} {s t rest rest' : List Byte} {blocks blocks' : List (List Byte)}
    (h : IsCut size s blocks rest) (h' : IsCut size (rest ++ t) blocks' rest') :
    IsCut size (s ++ t) (blocks ++ blocks') rest' where
  whole b hb := (List.mem_append.mp hb).elim (h.whole b) (h'.whole b)
  short := h'.short
  joined := by rw [List.flatten_append, List.append_assoc, h'.joined, ← List.append_assoc, h.joined]

theorem IsCut.length_eq {size : Nat} {s rest : List Byte} {blocks : List (List Byte)} (h : IsCut size s blocks rest) :
    s.length = size * blocks.length + rest.length := by
  have hflat : blocks.flatten.length = blocks.length * size := by
    rw [List.length_flatten, List.sum_eq_card_nsmul _ size (by simpa using h.whole), List.length_map, smul_eq_mul]
  rw [← h.joined, List.length_append, hflat, Nat.mul_comm]

/-- The blocks are the quotient (R181). -/
theorem IsCut.length_blocks {size : Nat} {s rest : List Byte} {blocks : List (List Byte)}
    (h : IsCut size s blocks rest) : blocks.length = s.length / size := by
  have hpos : 0 < size := Nat.zero_lt_of_lt h.short
  rw [h.length_eq, Nat.mul_add_div hpos, Nat.div_eq_of_lt h.short, Nat.add_zero]

/-- The rest is the remainder (R181). -/
theorem IsCut.length_rest {size : Nat} {s rest : List Byte} {blocks : List (List Byte)}
    (h : IsCut size s blocks rest) : rest.length = s.length % size := by
  rw [h.length_eq, Nat.mul_add_mod, Nat.mod_eq_of_lt h.short]

/-- There is one way to cut a sequence. -/
theorem IsCut.unique {size : Nat} {s rest rest' : List Byte} {blocks blocks' : List (List Byte)}
    (h : IsCut size s blocks rest) (h' : IsCut size s blocks' rest') : blocks = blocks' ∧ rest = rest' := by
  have hflat : blocks.flatten.length = blocks'.flatten.length := by
    have hl := congrArg List.length h.joined
    have hl' := congrArg List.length h'.joined
    rw [List.length_append, h.length_rest] at hl
    rw [List.length_append, h'.length_rest] at hl'
    omega
  obtain ⟨hblocks, hrest⟩ := List.append_inj (h.joined.trans h'.joined.symm) hflat
  refine ⟨List.eq_iff_flatten_eq.mpr ⟨hblocks, ?_⟩, hrest⟩
  rw [List.map_eq_replicate_iff.mpr h.whole, List.map_eq_replicate_iff.mpr h'.whole, h.length_blocks, h'.length_blocks]

/-- The inner loop of R180 cuts, given a turn for every byte. -/
theorem cutBlocks_isCut {size : Nat} (hsize : 0 < size) {n : Nat} {s : List Byte} (hn : s.length ≤ n) :
    IsCut size s (cutBlocks size n s).1 (cutBlocks size n s).2 := by
  induction n generalizing s with
  | zero =>
    rw [List.eq_nil_of_length_eq_zero (Nat.le_zero.mp hn)]
    exact .nil hsize
  | succ n ih =>
    rw [cutBlocks]
    split
    next hfull =>
      have hcut := ih (s := s.drop size) (by rw [List.length_drop]; omega)
      refine ⟨?_, hcut.short, ?_⟩
      · intro b hb
        rcases List.mem_cons.mp hb with rfl | hb
        · exact List.length_take_of_le hfull
        · exact hcut.whole b hb
      · rw [List.flatten_cons, List.append_assoc, hcut.joined, List.take_append_drop]
    next hshort => exact ⟨nofun, Nat.not_le.mp hshort, rfl⟩

/-- The blockizer gives out the whole blocks of all it has been given, then the rest (R180). -/
theorem blockizeFrom_isCut {size : Nat} (chunks : List (List Byte)) {buf : List Byte} (hbuf : buf.length < size) :
    ∃ blocks rest, IsCut size (buf ++ chunks.flatten) blocks rest ∧
      blockizeFrom size buf chunks = blocks ++ restBlock rest := by
  have hsize : 0 < size := Nat.zero_lt_of_lt hbuf
  induction chunks generalizing buf with
  | nil => exact ⟨[], buf, ⟨nofun, hbuf, by rw [List.flatten_nil, List.append_nil]; rfl⟩, rfl⟩
  | cons c cs ih =>
    have hcut := cutBlocks_isCut hsize (Nat.le_refl (buf ++ c).length)
    obtain ⟨blocks, rest, hrest, heq⟩ := ih hcut.short
    refine ⟨(cutBlocks size (buf ++ c).length (buf ++ c)).1 ++ blocks, rest, ?_, ?_⟩
    · rw [List.flatten_cons, ← List.append_assoc]
      exact hcut.append hrest
    · rw [blockizeFrom, heq, List.append_assoc]

/-- However a sequence is known to be cut, the blockizer cuts it so, whatever its chunks (R181(c)). -/
theorem blockize_of_isCut {size : Nat} {chunks : List (List Byte)} {blocks : List (List Byte)} {rest : List Byte}
    (h : IsCut size chunks.flatten blocks rest) : blockize chunks size = blocks ++ restBlock rest := by
  obtain ⟨blocks', rest', h', heq⟩ := blockizeFrom_isCut chunks (buf := []) (Nat.zero_lt_of_lt h.short)
  obtain ⟨rfl, rfl⟩ := h.unique h'
  exact heq

theorem exists_isCut {size : Nat} (hsize : 0 < size) (s : List Byte) : ∃ blocks rest, IsCut size s blocks rest :=
  ⟨_, _, cutBlocks_isCut hsize (Nat.le_refl s.length)⟩

/-- How many blocks the blockizer makes (R181). -/
theorem IsCut.length_pieces {size : Nat} {s rest : List Byte} {blocks : List (List Byte)}
    (h : IsCut size s blocks rest) :
    (blocks ++ restBlock rest).length = s.length / size + if s.length % size = 0 then 0 else 1 := by
  rw [List.length_append, h.length_blocks, ← h.length_rest]
  by_cases hrest : rest = []
  · rw [hrest, restBlock_nil, List.length_nil, if_pos List.length_nil]
  · rw [restBlock_of_ne_nil hrest, if_neg (mt List.eq_nil_of_length_eq_zero hrest), List.length_singleton]

/-- All blocks but the last are whole (R181). -/
theorem IsCut.length_of_mem_dropLast {size : Nat} {s rest : List Byte} {blocks : List (List Byte)}
    (h : IsCut size s blocks rest) {b : List Byte} (hb : b ∈ (blocks ++ restBlock rest).dropLast) :
    b.length = size := by
  refine h.whole b ?_
  by_cases hrest : rest = []
  · rw [hrest, restBlock_nil, List.append_nil] at hb
    exact List.mem_of_mem_dropLast hb
  · rwa [restBlock_of_ne_nil hrest, List.dropLast_concat] at hb

/-- The last block is the rest, or whole when nothing is left (R181). -/
theorem IsCut.length_of_mem_getLast {size : Nat} {s rest : List Byte} {blocks : List (List Byte)}
    (h : IsCut size s blocks rest) {b : List Byte} (hb : b ∈ (blocks ++ restBlock rest).getLast?) :
    1 ≤ b.length ∧ b.length ≤ size ∧ b.length = if s.length % size = 0 then size else s.length % size := by
  have hshort := h.short
  rw [← h.length_rest]
  by_cases hrest : rest = []
  · rw [hrest, restBlock_nil, List.append_nil] at hb
    have hlen : b.length = size := h.whole b (List.mem_of_getLast? hb)
    rw [hrest, List.length_nil, if_pos rfl]
    omega
  · rw [restBlock_of_ne_nil hrest, List.getLast?_concat, Option.mem_some_iff] at hb
    have hpos : 0 < rest.length := List.length_pos_of_ne_nil hrest
    rw [if_neg (Nat.ne_of_gt hpos), ← hb]
    omega

/-! ### A port transaction that is not admitted -/

/-- Outside `FAULT` mode a transaction that needs the engine idle faults when it is not (R303). -/
theorem pushOperand_not_admitted {s : State} (hlive : s.mode ≠ .fault) (h : ¬ (s.job = .none ∧ s.mode = .idle))
    (k : Result) :
    (unlessFaulted none s <| require (s.job = .none ∧ s.mode = .idle) .protocolError none s k) =
      .next { raiseFault .protocolError s with resp := none } :=
  (unlessFaulted_live hlive).trans (require_fails h)

/-- A push of data faults when a job is pending, or when it would fill a block before the output is drained (R186). -/
theorem exec_pushd_not_admitted {s : State} {n : Size} (v : Word32) (hlive : s.mode ≠ .fault)
    (h : s.job ≠ .none ∨ ¬ (s.streaming = true → s.bufcnt.toNat + n.bytes < 64 ∨ s.oavail = 0)) :
    exec (.pushd n v) s = .next { raiseFault .protocolError s with resp := none } := by
  refine (unlessFaulted_live hlive).trans ?_
  by_cases hj : s.job = .none
  · exact (require_holds hj).trans (require_fails (h.resolve_left (not_not_intro hj)))
  · exact require_fails hj

/-! ### The `BLOCK` jobs -/

/-- The job `BLOCK` in `ENC` mode, in one equation (R188, R211, R213). -/
theorem engineStep_encBlock {s : State} (hj : s.job = .block) (hm : s.mode = .enc) :
    engineStep s = { s with
      obuf := cipherBlock s.key s.chain (bufBlock s), olen := 64, ord := 0
      chain := cipherBlock s.key s.chain (bufBlock s)
      pfb := true, any := true
      buf := shiftedBytes s.buf (s.bufcnt.toNat - 64), bufcnt := BitVec.ofNat 8 (s.bufcnt.toNat - 64)
      job := .none } := by
  have hdispatch : engineStep s = jobEncBlock s := by simp only [engineStep, hj, hm]
  rw [hdispatch, jobEncBlock, shiftBuf_eq, chainStep, emitBlock]

/-- The job `BLOCK` in `DEC` mode, in one equation (R188, R241). -/
theorem engineStep_decBlock {s : State} (hj : s.job = .block) (hm : s.mode = .dec) :
    engineStep s = { s with
      obuf := if s.heldv = true then s.held else s.obuf
      olen := if s.heldv = true then 64 else s.olen
      ord := if s.heldv = true then 0 else s.ord
      held := cipherBlock s.key s.chain (bufBlock s), heldv := true, chain := bufBlock s
      buf := shiftedBytes s.buf (s.bufcnt.toNat - 64), bufcnt := BitVec.ofNat 8 (s.bufcnt.toNat - 64)
      job := .none } := by
  have hdispatch : engineStep s = jobDecBlock s := by simp only [engineStep, hj, hm]
  rw [hdispatch, jobDecBlock, shiftBuf_eq]
  cases s.heldv with
  | false => rfl
  | true => rw [if_pos rfl, emitBlock]; rfl

/-! ### What `BUF` holds -/

/-- With `BUFCNT = 0` nothing is held (R183). -/
theorem bufBytes_empty {s : State} (h : s.bufcnt = 0) : bufBytes s = [] := by
  rw [bufBytes, h]
  rfl

/-- Bytes pushed as far as there is room stand behind those that `BUF` held (R183, R186). -/
theorem bufBytes_foldl_pushBufByte {s : State} {l : List Byte} (h : s.bufcnt.toNat + l.length ≤ 67) :
    bufBytes (l.foldl pushBufByte s) = bufBytes s ++ l := by
  have hcount : (countRun s.bufcnt l.length).toNat = s.bufcnt.toNat + l.length := by
    rw [countRun_toNat]
    omega
  rw [foldl_pushBufByte, bufBytes, hcount, bufBytes]
  apply List.ext_getElem
  · simp only [List.length_take, Vector.length_toList, List.length_append]
    omega
  · intro i hi _
    rw [List.getElem_take, Vector.getElem_toList, getElem_storeRun]
    simp only [List.length_take, Vector.length_toList] at hi
    by_cases hnew : s.bufcnt.toNat ≤ i
    · have hl : i - s.bufcnt.toNat < l.length := by omega
      have hold : min s.bufcnt.toNat 67 = s.bufcnt.toNat := by omega
      simp [hnew, hl, hold]
    · have hold : i < s.bufcnt.toNat := Nat.not_le.mp hnew
      simp [hnew, hold, List.getElem_append]
      omega

/-- What `BUF` holds before a `BLOCK` job is the block the job takes, then what the shift leaves (R183, R188). -/
theorem bufBytes_eq_block_append {s t : State} (hcount : 64 ≤ s.bufcnt.toNat ∧ s.bufcnt.toNat ≤ 67)
    (hbuf : t.buf = shiftedBytes s.buf (s.bufcnt.toNat - 64))
    (hcnt : t.bufcnt = BitVec.ofNat 8 (s.bufcnt.toNat - 64)) :
    bufBytes s = (bufBlock s).toList ++ bufBytes t := by
  have hrest : (BitVec.ofNat 8 (s.bufcnt.toNat - 64)).toNat = s.bufcnt.toNat - 64 := by
    rw [BitVec.toNat_ofNat]
    omega
  rw [bufBytes, bufBytes, hbuf, hcnt, hrest]
  apply List.ext_getElem
  · simp only [List.length_take, Vector.length_toList, List.length_append]
    omega
  · intro i hi _
    simp only [List.length_take, Vector.length_toList] at hi
    rw [List.getElem_append]
    split
    next hblock => simp
    next hblock =>
      rw [Vector.length_toList] at hblock
      have hleft : i - 64 < s.bufcnt.toNat - 64 := by omega
      have hback : 64 + (i - 64) = i := by omega
      have hi67 : i < 67 := by omega
      simp [shiftedBytes, hleft, hback, hi67]

/-! ### Transactions on an open stream -/

/-- The bytes an instruction adds to an open stream (R183). -/
def streamInput : Instr → List Byte
  | .pushd n v => lanes n v
  | _ => []

/-- From `s` to `t` the stream has taken in the bytes `l`, and nothing else of it has changed. -/
structure TakesIn (l : List Byte) (s t : State) : Prop where
  mode : t.mode = s.mode
  key : t.key = s.key
  chain : t.chain = s.chain
  held : t.held = s.held
  heldv : t.heldv = s.heldv
  pfb : t.pfb = s.pfb
  any : t.any = s.any
  bytes : bufBytes t = bufBytes s ++ l

theorem takesIn_nil {s t : State} (mode : t.mode = s.mode) (key : t.key = s.key) (chain : t.chain = s.chain)
    (held : t.held = s.held) (heldv : t.heldv = s.heldv) (pfb : t.pfb = s.pfb) (any : t.any = s.any)
    (buf : t.buf = s.buf) (bufcnt : t.bufcnt = s.bufcnt) : TakesIn [] s t :=
  ⟨mode, key, chain, held, heldv, pfb, any, by rw [List.append_nil, bufBytes, bufBytes, buf, bufcnt]⟩

/-- The value returned is no part of the stream. -/
theorem TakesIn.of_resp {l : List Byte} {s t : State} (h : TakesIn l s t) (r : Option Word32) :
    TakesIn l s { t with resp := r } := ⟨h.mode, h.key, h.chain, h.held, h.heldv, h.pfb, h.any, h.bytes⟩

/-- Bytes pushed as far as there is room are taken in, whether or not they latch `BLOCK` (R186, R187). -/
theorem takesIn_pushes {s : State} {l : List Byte} (hroom : s.bufcnt.toNat + l.length ≤ 67) :
    TakesIn l s (latchBlock (l.foldl pushBufByte s)) := by
  have hbytes := bufBytes_foldl_pushBufByte hroom
  rw [foldl_pushBufByte] at hbytes ⊢
  rw [latchBlock]
  split <;> exact ⟨rfl, rfl, rfl, rfl, rfl, rfl, rfl, hbytes⟩

/-- Every admitted instruction but `RESET` and `ABORT` leaves an open stream open, and only `PUSHD` adds to it. -/
theorem admittedEffect_takesIn {i : Instr} {s : State} (h : s.Inv) (hopen : s.mode = .enc ∨ s.mode = .dec)
    (hreset : i ≠ .reset) (habort : i ≠ .abort) (ha : Admits i s) :
    TakesIn (streamInput i) s (admittedEffect i s) := by
  have hbusy : s.mode ≠ .idle := by rcases hopen with hm | hm <;> rw [hm] <;> exact nofun
  cases i with
  | reset => exact absurd rfl hreset
  | abort => exact absurd rfl habort
  | clrkey | clriv | pushk | pushiv => exact absurd ha.2 hbusy
  | fwd | bwd | encStart | decStart => exact absurd ha.1.2.1 hbusy
  | pushd n v =>
    obtain ⟨-, hj, -⟩ := ha
    have hshort : s.bufcnt.toNat ≤ 63 := h.bufferBounds.1 ⟨hopen, by rw [hj]; exact nofun⟩
    have hn := size_bytes_le n
    exact takesIn_pushes (by rw [streamInput, length_lanes]; omega)
  | pop n =>
    rw [admittedEffect, advanceOutput_eq]
    exact takesIn_nil rfl rfl rfl rfl rfl rfl rfl rfl rfl
  | final | rdid | rdparam | rdstatus | rdlen => exact takesIn_nil rfl rfl rfl rfl rfl rfl rfl rfl rfl

/-- An instruction after which the engine is not in `FAULT` mode was admitted (R300, R312). -/
theorem exec_admitted {i : Instr} {s t : State} (ht : exec i s = .next t) (hnofault : t.mode ≠ .fault) :
    Admits i s ∧ t = { admittedEffect i s with resp := admittedReply i s } := by
  cases exec_cases ht with
  | admitted ha => exact ⟨ha, rfl⟩
  | faulted => exact absurd rfl hnofault
  | ignored hf => exact absurd hf hnofault

/-- What every admitted instruction but `RESET` and `ABORT` does to an open stream. -/
theorem exec_takesIn {i : Instr} {s t : State} (h : s.Inv) (hopen : s.mode = .enc ∨ s.mode = .dec)
    (ht : exec i s = .next t) (hnofault : t.mode ≠ .fault) (hreset : i ≠ .reset := by exact nofun)
    (habort : i ≠ .abort := by exact nofun) : TakesIn (streamInput i) s t := by
  obtain ⟨ha, rfl⟩ := exec_admitted ht hnofault
  exact (admittedEffect_takesIn h hopen hreset habort ha).of_resp _

/-- An admitted `FINAL` latches its job (R214). -/
theorem exec_final_job {s t : State} (ht : exec .final s = .next t) (hnofault : t.mode ≠ .fault) :
    t.job = .final := by
  obtain ⟨-, rfl⟩ := exec_admitted ht hnofault
  rfl

/-- A register read changes the response only (R274 to R277). -/
theorem exec_registerRead {i : Instr} (hi : i ∈ [Instr.rdid, .rdparam, .rdstatus, .rdlen]) {s t : State}
    (ht : exec i s = .next t) : ∃ r, t = { s with resp := r } := by
  simp only [List.mem_cons, List.not_mem_nil, or_false] at hi
  rcases hi with rfl | rfl | rfl | rfl <;> exact ⟨_, reply_eq_next.mp ht⟩

theorem registerRead_takesIn {i : Instr} (hi : i ∈ [Instr.rdid, .rdparam, .rdstatus, .rdlen]) {s t : State}
    (ht : exec i s = .next t) : TakesIn [] s t ∧ t.job = s.job := by
  obtain ⟨r, rfl⟩ := exec_registerRead hi ht
  exact ⟨takesIn_nil rfl rfl rfl rfl rfl rfl rfl rfl rfl, rfl⟩

/-- A job is pending only when the output is drained (R36(b)). -/
theorem unread_of_busy {s : State} (h : s.Inv) (hjob : s.job ≠ .none) : s.unread = [] := by
  apply List.eq_nil_of_length_eq_zero
  rw [length_unread h.outputWithin]
  exact (h.jobNeedsRoom hjob).1

/-- A block emitted and not yet popped (R24). -/
theorem unread_of_block {s : State} (holen : s.olen = 64) (hord : s.ord = 0) : s.unread = s.obuf.toList := by
  rw [State.unread, holen, hord]
  exact List.take_of_length_le (Nat.le_of_eq s.obuf.length_toList)

/-! ### The function layer of the streams -/

theorem flatBlocks_append (bs ds : List Block) : flatBlocks (bs ++ ds) = flatBlocks bs ++ flatBlocks ds := by
  rw [flatBlocks, List.map_append, List.flatten_append, flatBlocks, flatBlocks]

theorem flatBlocks_singleton (b : Block) : flatBlocks [b] = b.toList := List.flatten_singleton

/-- Whole blocks and a rest that is shorter than a block are a cut (R181, R183). -/
theorem isCut_flatBlocks (bs : List Block) {rest : List Byte} (h : rest.length < 64) :
    IsCut 64 (flatBlocks bs ++ rest) (bs.map Vector.toList) rest := by
  refine ⟨fun b hb => ?_, h, rfl⟩
  obtain ⟨b', -, rfl⟩ := List.mem_map.mp hb
  exact b'.length_toList

/-- Every plaintext block gives one ciphertext block (R217). -/
theorem length_cipherChain (key : Key) (chain : Block) (bs : List Block) :
    (cipherChain key chain bs).length = bs.length := by
  induction bs generalizing chain with
  | nil => rfl
  | cons b bs ih => simp only [cipherChain, List.length_cons, ih]

/-- Chaining goes on from the last ciphertext block (R211, R217). -/
theorem cipherChain_append (key : Key) (chain : Block) (bs ds : List Block) :
    cipherChain key chain (bs ++ ds) =
      cipherChain key chain bs ++ cipherChain key ((cipherChain key chain bs).getLast?.getD chain) ds := by
  induction bs generalizing chain with
  | nil => rfl
  | cons b bs ih =>
    rw [List.cons_append, cipherChain, cipherChain, ih, List.cons_append, List.getLast?_cons, Option.getD_some]

/-- A whole block needs no padding (R210). -/
theorem fit_pad_toList (b : Block) : fit 64 (pad b.toList) = b := by
  rw [pad, b.length_toList, Nat.sub_self, List.replicate_zero, List.append_nil, fit_toList]

/-- The marker block is the padding of nothing (R13, R210). -/
theorem fit_pad_nil : fit 64 (pad []) = markerBlock := by
  ext1 i hi
  rw [getElem_fit, markerBlock, getElem_rep]
  exact List.getD_replicate _ hi

/-- The encryptor's loop over whole blocks, which chains them and sets both flags (R216). -/
theorem encryptFrom_whole (key : Key) (chain : Block) (f : Bool) (bs : List Block) (tail : List (List Byte)) :
    encryptFrom key chain f f (bs.map Vector.toList ++ tail) =
      cipherChain key chain bs ++
        encryptFrom key ((cipherChain key chain bs).getLast?.getD chain) (f || !bs.isEmpty) (f || !bs.isEmpty) tail := by
  induction bs generalizing chain f with
  | nil => rw [List.isEmpty_nil, Bool.not_true, Bool.or_false]; rfl
  | cons b bs ih =>
    have hfull : decide (64 ≤ b.toList.length) = true := by rw [b.length_toList]; rfl
    rw [List.map_cons, List.cons_append, encryptFrom, fit_pad_toList, hfull, ih, cipherChain, List.cons_append,
      List.getLast?_cons, Option.getD_some, List.isEmpty_cons, Bool.not_false, Bool.or_true, Bool.true_or]

/-- The end of the encryptor's loop, where both flags agree: one block, the padded rest, or the marker (R216). -/
theorem encryptFrom_restBlock (key : Key) (chain : Block) (f : Bool) {rest : List Byte} (h : rest.length < 64) :
    encryptFrom key chain f f (restBlock rest) = [cipherBlock key chain (fit 64 (pad rest))] := by
  by_cases hrest : rest = []
  · rw [hrest, restBlock_nil, encryptFrom, Bool.or_not_self, if_pos rfl, fit_pad_nil]
  · have hshort : decide (64 ≤ rest.length) = false := decide_eq_false (Nat.not_le.mpr h)
    rw [restBlock_of_ne_nil hrest, encryptFrom, hshort, encryptFrom, Bool.not_true, Bool.or_false, if_neg nofun]

/-- `encrypt` of whole blocks and a rest: the chained blocks, and one block more for the rest (R216, R217). -/
theorem encrypt_flatBlocks_append (key : Key) (iv : Block) (bs : List Block) {rest : List Byte}
    (h : rest.length < 64) :
    encrypt key iv [flatBlocks bs ++ rest] = cipherChain key iv bs ++
      [cipherBlock key ((cipherChain key iv bs).getLast?.getD iv) (fit 64 (pad rest))] := by
  have hcut : IsCut 64 [flatBlocks bs ++ rest].flatten (bs.map Vector.toList) rest := by
    rw [List.flatten_singleton]
    exact isCut_flatBlocks bs h
  rw [encrypt, blockize_of_isCut hcut, encryptFrom_whole, encryptFrom_restBlock _ _ _ h]

/-- The decryptor's loop gives out all blocks but the last as they are, and the last, held until then, under the
final-block rule (R245, R246). -/
theorem decryptFrom_eq (key : Key) (chain : Block) (held : Option Block) (cs : List Block) :
    decryptFrom key chain held cs =
      (held.toList ++ plainChain key chain cs).dropLast.map Vector.toList ++
        ((held.toList ++ plainChain key chain cs).getLast?.bind finalRule).toList := by
  induction cs generalizing chain held with
  | nil => cases held <;> rfl
  | cons c cs ih =>
    rw [decryptFrom, ih, plainChain]
    cases held <;> rfl

/-- `decrypt` in bytes (R245, R246). -/
theorem flatten_decrypt (key : Key) (iv : Block) (blocks : List Block) :
    (decrypt key iv blocks).flatten =
      flatBlocks (plainChain key iv blocks).dropLast ++ ((plainChain key iv blocks).getLast?.bind finalRule).getD [] := by
  have hlast (o : Option (List Byte)) : o.toList.flatten = o.getD [] := by
    cases o with
    | none => rfl
    | some f => exact List.flatten_singleton
  rw [decrypt, decryptFrom_eq, Option.toList_none, List.nil_append, List.flatten_append, hlast, flatBlocks]

/-! ### An encryption in progress -/

section
variable {key : Key} {iv : Block} {p : List Byte} {out : List Block} {s t : State}

/-- `ENC_START` opens an encryption with nothing pushed and nothing emitted (R212). -/
theorem encStream_of_start (ht : exec .encStart s = .next t) (hm : t.mode = .enc) : EncStream s.key s.iv [] [] t := by
  obtain ⟨-, rfl⟩ := exec_admitted ht (ne_fault_of_open (.inl hm))
  exact ⟨rfl, rfl, ⟨[], rfl, (bufBytes_empty rfl).symm⟩, rfl, rfl, rfl⟩

/-- What the stream takes in is plaintext (R183). -/
theorem EncStream.of_takesIn {l : List Byte} (h : EncStream key iv p out s) (ht : TakesIn l s t) :
    EncStream key iv (p ++ l) out t := by
  obtain ⟨plain, hout, hp⟩ := h.taken
  refine ⟨ht.mode.trans h.isEnc, ht.key.trans h.keyIs, ⟨plain, hout, ?_⟩, ht.chain.trans h.chainIs, ?_⟩
  · rw [ht.bytes, hp, List.append_assoc]
  · rw [ht.pfb, ht.any]
    exact h.flagsAre

/-- What the stream does not change is not changed (R221). -/
theorem EncStream.of_takesIn_nil (h : EncStream key iv p out s) (ht : TakesIn [] s t) : EncStream key iv p out t :=
  List.append_nil p ▸ h.of_takesIn ht

/-- The job `BLOCK` takes a whole block from `BUF` and emits its ciphertext, which is the next chain state (R213). -/
theorem EncStream.of_block (h : EncStream key iv p out s) (hinv : s.Inv) (hj : s.job = .block) :
    EncStream key iv p (out ++ [(engineStep s).obuf]) (engineStep s) := by
  have hstep := engineStep_encBlock hj h.isEnc
  obtain ⟨plain, hout, hp⟩ := h.taken
  have hbytes : bufBytes s = (bufBlock s).toList ++ bufBytes (engineStep s) :=
    bufBytes_eq_block_append (hinv.bufferBounds.2.1 hj) (by rw [hstep]) (by rw [hstep])
  have hobuf : (engineStep s).obuf = cipherBlock key ((cipherChain key iv plain).getLast?.getD iv) (bufBlock s) := by
    rw [hstep, ← hout, ← h.chainIs, ← h.keyIs]
  refine ⟨?_, ?_, ⟨plain ++ [bufBlock s], ?_, ?_⟩, ?_, ?_⟩
  · rw [hstep]
    exact h.isEnc
  · rw [hstep]
    exact h.keyIs
  · rw [cipherChain_append, hobuf, hout]
    rfl
  · rw [flatBlocks_append, flatBlocks_singleton, List.append_assoc, ← hbytes, hp]
  · rw [List.getLast?_concat, hstep, Option.getD_some]
  · simp [hstep]

/-- A pending `FINAL` of an encryption emits the padded rest, which is the marker block when nothing is left, and keeps
`PFB` when nothing is left (R215, R36(i)). -/
theorem engineStep_encFinal_eq (h : s.Inv) (hj : s.job = .final) (hm : s.mode = .enc) :
    engineStep s = { s with
      obuf := cipherBlock s.key s.chain (fit 64 (pad (bufBytes s))), olen := 64, ord := 0
      chain := cipherBlock s.key s.chain (fit 64 (pad (bufBytes s)))
      pfb := s.pfb && decide (s.bufcnt.toNat = 0), any := s.any || decide (0 < s.bufcnt.toNat)
      bufcnt := 0, mode := .idle, done := true, job := .none } := by
  rw [engineStep_encFinal hj hm, jobEncFinal]
  rcases encTail_cases s with ⟨hpos, htail⟩ | ⟨hzero, -, htail⟩ | ⟨hzero, hnomark, -⟩
  · rw [htail, chainStep, emitBlock, decide_eq_true hpos, decide_eq_false (Nat.ne_of_gt hpos), Bool.and_false,
      Bool.or_true]
  · have hcount : s.bufcnt.toNat = 0 := congrArg BitVec.toNat hzero
    rw [htail, chainStep, emitBlock, bufBytes_empty hzero, fit_pad_nil, hcount, decide_eq_true rfl,
      decide_eq_false (Nat.lt_irrefl 0), Bool.and_true, Bool.or_false]
  · have hmark : s.markerNeeded = true := h.markerFlags.2 ⟨hm, hj, hzero⟩
    rw [hnomark] at hmark
    exact nomatch hmark

/-- The lengths of a stream: 64 bytes for each block emitted, and what `BUF` holds (R183). -/
theorem EncStream.length_plain (h : EncStream key iv p out s) (hshort : s.bufcnt.toNat ≤ 63) :
    p.length = 64 * out.length + s.bufcnt.toNat := by
  obtain ⟨plain, hout, hp⟩ := h.taken
  have hrest : (bufBytes s).length = s.bufcnt.toNat := by
    rw [length_bufBytes]
    omega
  have hcut := isCut_flatBlocks plain (rest := bufBytes s) (by omega)
  rw [hp, hcut.length_eq, hrest, List.length_map, hout, length_cipherChain]

/-- The job `FINAL` emits the last block of `encrypt` (R215, R216). -/
theorem EncStream.of_final (h : EncStream key iv p out s) (hinv : s.Inv) (hj : s.job = .final) :
    out ++ [(engineStep s).obuf] = encrypt key iv [p] := by
  have hshort : s.bufcnt.toNat ≤ 63 := hinv.bufferBounds.1 ⟨.inl h.isEnc, by rw [hj]; exact nofun⟩
  obtain ⟨plain, hout, hp⟩ := h.taken
  have hrest : (bufBytes s).length < 64 := by
    rw [length_bufBytes]
    omega
  rw [engineStep_encFinal_eq hinv hj h.isEnc, hp, encrypt_flatBlocks_append key iv plain hrest, ← hout, ← h.chainIs,
    ← h.keyIs]

/-- `PFB` and `ANY` at the end say whether the last byte pushed filled a block, and whether any was pushed (R221). -/
theorem EncStream.flags_of_final (h : EncStream key iv p out s) (hinv : s.Inv) (hj : s.job = .final) :
    ((engineStep s).pfb = true ↔ p.length % 64 = 0 ∧ 0 < p.length) ∧ ((engineStep s).any = true ↔ 0 < p.length) := by
  have hshort : s.bufcnt.toNat ≤ 63 := hinv.bufferBounds.1 ⟨.inl h.isEnc, by rw [hj]; exact nofun⟩
  have hlen := h.length_plain hshort
  obtain ⟨hpfb, hany⟩ := h.flagsAre
  have hemitted : (!out.isEmpty) = decide (0 < out.length) := by cases out <;> rfl
  rw [engineStep_encFinal_eq hinv hj h.isEnc]
  simp only [hpfb, hany, hemitted, Bool.and_eq_true, Bool.or_eq_true, decide_eq_true_eq]
  omega

end

/-! ### A decryption in progress -/

/-- The plaintext recovered so far: what is emitted, and the block that is held (R249). -/
def recovered (out : List Block) (s : State) : List Block := if s.heldv = true then out ++ [s.held] else out

section
variable {key : Key} {iv : Block} {c : List Byte} {out : List Block} {s t : State}

/-- `DEC_START` opens a decryption with nothing pushed, nothing held and nothing emitted (R240). -/
theorem decStream_of_start (ht : exec .decStart s = .next t) (hm : t.mode = .dec) : DecStream s.key s.iv [] [] t := by
  obtain ⟨-, rfl⟩ := exec_admitted ht (ne_fault_of_open (.inr hm))
  exact ⟨rfl, rfl, ⟨[], (bufBytes_empty rfl).symm, rfl, rfl, rfl, nofun⟩⟩

/-- What the stream takes in is ciphertext (R183). -/
theorem DecStream.of_takesIn {l : List Byte} (h : DecStream key iv c out s) (ht : TakesIn l s t) :
    DecStream key iv (c ++ l) out t := by
  obtain ⟨blocks, hc, hrest⟩ := h.taken
  refine ⟨ht.mode.trans h.isDec, ht.key.trans h.keyIs, ⟨blocks, ?_, ?_⟩⟩
  · rw [ht.bytes, hc, List.append_assoc]
  · rw [ht.chain, ht.heldv, ht.held]
    exact hrest

/-- What the stream does not change is not changed (R251). -/
theorem DecStream.of_takesIn_nil (h : DecStream key iv c out s) (ht : TakesIn [] s t) : DecStream key iv c out t :=
  List.append_nil c ▸ h.of_takesIn ht

/-- The ciphertext blocks taken, and what has been recovered as their plaintext (R245). -/
theorem DecStream.exists_blocks (h : DecStream key iv c out s) :
    ∃ blocks : List Block, c = flatBlocks blocks ++ bufBytes s ∧ s.chain = blocks.getLast?.getD iv ∧
      s.heldv = !blocks.isEmpty ∧ plainChain key iv blocks = recovered out s := by
  obtain ⟨blocks, hc, hchain, hheldv, hout, hheld⟩ := h.taken
  refine ⟨blocks, hc, hchain, hheldv, ?_⟩
  rw [recovered]
  split
  next hv => rw [hout, List.dropLast_append_getLast? _ (hheld hv)]
  next hv =>
    obtain rfl : blocks = [] := by simpa [hheldv] using hv
    exact hout.symm

/-- The job `BLOCK` takes a whole block from `BUF`, emits what was held and holds the new plaintext (R241). -/
theorem DecStream.of_block (h : DecStream key iv c out s) (hinv : s.Inv) (hj : s.job = .block) :
    DecStream key iv c (recovered out s) (engineStep s) := by
  have hstep := engineStep_decBlock hj h.isDec
  obtain ⟨blocks, hc, hchain, -, hrec⟩ := h.exists_blocks
  have hbytes : bufBytes s = (bufBlock s).toList ++ bufBytes (engineStep s) :=
    bufBytes_eq_block_append (hinv.bufferBounds.2.1 hj) (by rw [hstep]) (by rw [hstep])
  have hplain : plainChain key iv (blocks ++ [bufBlock s]) = recovered out s ++ [(engineStep s).held] := by
    rw [plainChain_append, hrec, ← hchain, hstep, ← h.keyIs]
    rfl
  refine ⟨?_, ?_, ⟨blocks ++ [bufBlock s], ?_, ?_, ?_, ?_, fun _ => ?_⟩⟩
  · rw [hstep]
    exact h.isDec
  · rw [hstep]
    exact h.keyIs
  · rw [flatBlocks_append, flatBlocks_singleton, List.append_assoc, ← hbytes, hc]
  · rw [List.getLast?_concat, hstep, Option.getD_some]
  · simp [hstep]
  · rw [hplain, List.dropLast_concat]
  · rw [hplain, List.getLast?_concat]

/-- Every later `BLOCK` job of a decryption leaves the block that was held to be read (R241). -/
theorem unread_decBlock_held (hj : s.job = .block) (hm : s.mode = .dec) (hv : s.heldv = true) :
    (engineStep s).unread = s.held.toList := by
  have hobuf : (engineStep s).obuf = s.held := by rw [engineStep_decBlock hj hm]; exact if_pos hv
  rw [← hobuf]
  apply unread_of_block <;> rw [engineStep_decBlock hj hm] <;> exact if_pos hv

/-- The first `BLOCK` job of a decryption leaves the output as it is (R241). -/
theorem unread_decBlock_not_held (hj : s.job = .block) (hm : s.mode = .dec) (hv : s.heldv = false) :
    (engineStep s).unread = s.unread := by
  rw [State.unread, State.unread, engineStep_decBlock hj hm]
  simp only [hv, Bool.false_eq_true, if_false]

/-- A piece of at most 64 bytes emitted and not yet popped (R24). -/
theorem unread_emitBytes {f : List Byte} (hf : f.length ≤ 64) : (emitBytes f s).unread = f := by
  have holen : (BitVec.ofNat 7 f.length).toNat = f.length := by
    rw [BitVec.toNat_ofNat]
    omega
  rw [State.unread, emitBytes_olen, emitBytes_ord, emitBytes_obuf, holen]
  apply List.ext_getElem
  · simpa using hf
  · intro i hi hif
    simp [hif]

/-- The job `FINAL` of a decryption closes the stream and changes nothing else of it (R243). -/
theorem engineStep_decFinal_closes (hj : s.job = .final) (hm : s.mode = .dec) :
    (engineStep s).chain = s.chain ∧ (engineStep s).mode = .idle ∧ (engineStep s).done = true ∧
      (engineStep s).job = .none ∧ (engineStep s).heldv = false ∧ (engineStep s).bufcnt = s.bufcnt ∧
      (engineStep s).pfb = s.pfb ∧ (engineStep s).any = s.any := by
  obtain ⟨obuf, olen, ord, -, htail⟩ := decTail_shape s
  rw [engineStep_decFinal hj hm, jobDecFinal, htail]
  exact ⟨rfl, rfl, rfl, rfl, rfl, rfl, rfl, rfl⟩

theorem unread_engineStep_decFinal (hj : s.job = .final) (hm : s.mode = .dec) :
    (engineStep s).unread = (decTail s).unread := by
  rw [engineStep_decFinal hj hm]
  rfl

/-- On a drained output the end of a decryption leaves to be read what the final-block rule leaves of the held block
(R243, R244). -/
theorem unread_decTail_held (hdrained : s.unread = []) (hv : s.heldv = true) :
    (decTail s).unread = (finalRule s.held).getD [] := by
  cases hf : finalRule s.held with
  | none => rw [decTail_nothing (.inr hf), hdrained, Option.getD_none]
  | some f =>
    obtain ⟨-, hlen⟩ := finalRule_length hf
    rw [decTail_emits hv hf, unread_emitBytes hlen, Option.getD_some]

/-- The job `FINAL` emits the last piece of `decrypt` of the blocks taken (R243, R246). -/
theorem unread_decTail_eq_decrypt {blocks : List Block} (hdrained : s.unread = [])
    (hheldv : s.heldv = !blocks.isEmpty) (hrec : plainChain key iv blocks = recovered out s) :
    flatBlocks out ++ (decTail s).unread = (decrypt key iv blocks).flatten := by
  rw [recovered] at hrec
  cases hv : s.heldv with
  | true =>
    rw [if_pos hv] at hrec
    rw [unread_decTail_held hdrained hv, flatten_decrypt, hrec, List.dropLast_concat, List.getLast?_concat,
      Option.bind_some]
  | false =>
    obtain rfl : blocks = [] := by simpa [hheldv] using hv
    rw [if_neg (Bool.eq_false_iff.mp hv)] at hrec
    rw [decTail_nothing (.inl hv), hdrained, ← hrec]
    rfl

/-- The end of a decryption: `decrypt` of the blocks pushed is what has been emitted, and the chain state is the last of
them (R243, R251). -/
theorem DecStream.of_final (h : DecStream key iv c out s) (hinv : s.Inv) (hj : s.job = .final) :
    ∃ blocks : List Block, flatBlocks blocks = c ∧
      flatBlocks out ++ (engineStep s).unread = (decrypt key iv blocks).flatten ∧
      s.chain = blocks.getLast?.getD iv := by
  have hempty : s.bufcnt = 0 := hinv.bufferBounds.2.2 ⟨hj, h.isDec⟩
  have hdrained : s.unread = [] := unread_of_busy hinv (by rw [hj]; exact nofun)
  obtain ⟨blocks, hc, hchain, hheldv, hrec⟩ := h.exists_blocks
  refine ⟨blocks, ?_, ?_, hchain⟩
  · rw [hc, bufBytes_empty hempty, List.append_nil]
  · rw [unread_engineStep_decFinal hj h.isDec, unread_decTail_eq_decrypt hdrained hheldv hrec]

end

/-! ### The statements -/

/-- Settles O59: the stream relation holds from `ENC_START` on, whatever is admitted, and its `FINAL` step emits the last
block of `encrypt`. -/
theorem encryptionComputesEncrypt : Obligations.EncryptionComputesEncrypt := by
  refine ⟨fun s t => encStream_of_start, fun key iv p out s hinv h => ?_⟩
  have hopen : s.mode = .enc ∨ s.mode = .dec := .inl h.isEnc
  refine ⟨fun n v t ht hnofault => ?pushd, fun n t ht hnofault => ?pop, fun i hi t ht => ?reads,
    fun t ht hnofault => ?final, fun hj => ?blockJob, fun hj => ?finalJob⟩
  case pushd => exact h.of_takesIn (exec_takesIn hinv hopen ht hnofault)
  case pop => exact h.of_takesIn_nil (exec_takesIn hinv hopen ht hnofault)
  case reads => exact (registerRead_takesIn hi ht).imp_left h.of_takesIn_nil
  case final => exact ⟨h.of_takesIn_nil (exec_takesIn hinv hopen ht hnofault), exec_final_job ht hnofault⟩
  case blockJob =>
    refine ⟨h.of_block hinv hj, ?_⟩
    apply unread_of_block <;> rw [engineStep_encBlock hj h.isEnc]
  case finalJob =>
    have hstep := engineStep_encFinal_eq hinv hj h.isEnc
    refine ⟨h.of_final hinv hj, unread_of_block ?_ ?_, ?_, ?_, ?_, ?_, ?_, h.flags_of_final hinv hj⟩ <;> rw [hstep]

/-- Settles O60: the stream relation holds from `DEC_START` on, whatever is admitted, and its `FINAL` step emits the last
piece of `decrypt`. -/
theorem decryptionComputesDecrypt : Obligations.DecryptionComputesDecrypt := by
  refine ⟨fun s t => decStream_of_start, fun key iv c out s hinv h => ?_⟩
  have hopen : s.mode = .enc ∨ s.mode = .dec := .inr h.isDec
  refine ⟨fun n v t ht hnofault => ?pushd, fun n t ht hnofault => ?pop, fun i hi t ht => ?reads,
    fun t ht hnofault => ?final, fun hj hv => ?firstBlock, fun hj hv => ?laterBlock, fun hj => ?finalJob⟩
  case pushd => exact h.of_takesIn (exec_takesIn hinv hopen ht hnofault)
  case pop => exact h.of_takesIn_nil (exec_takesIn hinv hopen ht hnofault)
  case reads => exact (registerRead_takesIn hi ht).imp_left h.of_takesIn_nil
  case final => exact ⟨h.of_takesIn_nil (exec_takesIn hinv hopen ht hnofault), exec_final_job ht hnofault⟩
  case firstBlock =>
    have hrec : recovered out s = out := by rw [recovered, hv, if_neg nofun]
    refine ⟨hrec ▸ h.of_block hinv hj, ?_⟩
    rw [unread_decBlock_not_held hj h.isDec hv]
    exact unread_of_busy hinv (by rw [hj]; exact nofun)
  case laterBlock =>
    have hrec : recovered out s = out ++ [s.held] := if_pos hv
    exact ⟨hrec ▸ h.of_block hinv hj, unread_decBlock_held hj h.isDec hv⟩
  case finalJob =>
    obtain ⟨hchain, hmode, hdone, hjob, hheldv, hbufcnt, hpfb, hany⟩ := engineStep_decFinal_closes hj h.isDec
    obtain ⟨hnopfb, hnoany⟩ := hinv.modeFlags.2 h.isDec
    obtain ⟨blocks, hc, hplain, hlast⟩ := h.of_final hinv hj
    exact ⟨blocks, hc, hplain, hchain.trans hlast, hmode, hdone, hjob, hheldv,
      hbufcnt.trans (hinv.bufferBounds.2.2 ⟨hj, h.isDec⟩), hpfb.trans hnopfb, hany.trans hnoany⟩

/-- Settles O29: the job on `BUF[0..63]`. -/
theorem encryptorBlockStep : Obligations.EncryptorBlockStep := by
  intro s b hb hj hm
  obtain rfl := eq_bufBlock hb
  exact engineStep_encBlock hj hm

/-- Settles O30: the job on `BUF[0..63]`. -/
theorem decryptorBlockStep : Obligations.DecryptorBlockStep := by
  intro s b hb hj hm
  obtain rfl := eq_bufBlock hb
  exact engineStep_decBlock hj hm

/-- Settles O52: the chunks are cut as their concatenation is, and there is one way to cut it. -/
theorem blockizerProperties : Obligations.BlockizerProperties := by
  intro size chunks hsize
  obtain ⟨blocks, rest, hcut⟩ := exists_isCut hsize chunks.flatten
  have hpieces : blockize chunks size = blocks ++ restBlock rest := blockize_of_isCut hcut
  rw [hpieces]
  refine ⟨?bytes, hcut.length_pieces, fun b => hcut.length_of_mem_dropLast, fun b => hcut.length_of_mem_getLast,
    fun chunks' hsame => ?chunks, fun n => ?empty⟩
  case bytes => rw [List.flatten_append, flatten_restBlock, hcut.joined]
  case chunks => exact blockize_of_isCut (hsame ▸ hcut)
  case empty =>
    have hnone : IsCut size (List.replicate n []).flatten [] [] := by
      rw [List.flatten_replicate_nil]
      exact .nil hsize
    exact blockize_of_isCut hnone

/-- Settles O24: the first check that fails is a `requires` line for `ProtocolError`. -/
theorem portTransactionsNotAdmittedFault : Obligations.PortTransactionsNotAdmittedFault := by
  intro s n v hlive
  refine ⟨fun hidle => ?operand, fun hroom => ?data, fun hshort => ?pop⟩
  case operand => exact ⟨pushOperand_not_admitted hlive hidle _, pushOperand_not_admitted hlive hidle _⟩
  case data =>
    refine exec_pushd_not_admitted v hlive (hroom.imp_right ?_)
    rintro ⟨hopen, hfull, hunread⟩ hadmits
    have := hadmits (by simpa [State.streaming] using hopen)
    omega
  case pop => exact (unlessFaulted_live hlive).trans (require_fails (Nat.not_le.mpr hshort))

end Sys2Proof.Machine
end

section
/-! PROOFS. `FINAL` and the end of an encryption; the closed form of `encrypt`, and what follows from it: the number of
blocks, the marker block of an empty plaintext, and sensitivity to the IV. -/

namespace Sys2Proof.Machine

/-! ### Padding -/

/-- Padding fills up a block (R210). -/
theorem length_pad {l : List Byte} (h : l.length ≤ 64) : (pad l).length = 64 := by
  rw [pad, List.length_append, List.length_replicate, Nat.add_sub_of_le h]

/-- A padded block byte by byte: the bytes there were, then the number of those missing (R210). -/
theorem getElem_fit_pad (l : List Byte) (i : Nat) (hi : i < 64) :
    (fit 64 (pad l))[i] = if h : i < l.length then l[i] else BitVec.ofNat 8 (64 - l.length) := by
  rw [getElem_fit, pad]
  split
  next hold => rw [List.getD_append _ _ _ _ hold, List.getD_eq_getElem _ _ hold]
  next hnew => rw [List.getD_append_right _ _ _ _ (Nat.not_lt.mp hnew), List.getD_replicate _ (by omega)]

/-- The block that a remainder of at most 63 bytes in `BUF` is padded to (R210, R215). -/
theorem eq_paddedRemainder {s : State} {b : Block} (hshort : s.bufcnt.toNat ≤ 63)
    (h : ∀ i (hi : i < 64), b[i] = if i < s.bufcnt.toNat then s.buf[i] else BitVec.ofNat 8 (64 - s.bufcnt.toNat)) :
    b = fit 64 (pad (bufBytes s)) := by
  have hlen : (bufBytes s).length = s.bufcnt.toNat := by
    rw [length_bufBytes]
    omega
  ext1 i hi
  rw [h i hi, getElem_fit_pad]
  simp only [hlen]
  split
  next => simp only [bufBytes, List.getElem_take, Vector.getElem_toList]
  next => rfl

/-- The block of sixty-four `0x40` is the marker block (R13). -/
theorem eq_markerBlock {b : Block} (h : ∀ i (hi : i < 64), b[i] = 0x40) : b = markerBlock := by
  ext1 i hi
  rw [h i hi, markerBlock, getElem_rep]

/-! ### What the job `FINAL` in `ENC` mode emits -/

/-- The marker block is needed after a whole block, and when nothing has been pushed (R28, R215). -/
theorem markerNeeded_iff (s : State) : s.markerNeeded = true ↔ s.pfb = true ∨ s.any = false := by
  rw [State.markerNeeded, Bool.or_eq_true, Bool.not_eq_true']

theorem encTail_of_remainder {s : State} (h : 0 < s.bufcnt.toNat) :
    encTail s = { chainStep (fit 64 (pad (bufBytes s))) s with pfb := false, any := true } := if_pos h

/-- Without a remainder only the marker block can be emitted, and only where it is needed (R215). -/
theorem encTail_of_empty {s : State} (h : s.bufcnt = 0) :
    encTail s = if s.markerNeeded = true then chainStep markerBlock s else s := by
  have hnone : ¬ 0 < s.bufcnt.toNat := by rw [h]; exact Nat.lt_irrefl 0
  exact if_neg hnone

/-! ### The padded stream in blocks -/

theorem length_flatBlocks (bs : List Block) : (flatBlocks bs).length = 64 * bs.length := by
  have hcut := isCut_flatBlocks bs (rest := []) (by decide)
  simpa using hcut.length_eq

/-- Cutting takes whole blocks apart again (R217). -/
theorem blocksOf_flatBlocks (bs : List Block) : blocksOf bs.length (flatBlocks bs) = bs := by
  induction bs with
  | nil => rfl
  | cons b bs ih =>
    have hflat : flatBlocks (b :: bs) = b.toList ++ flatBlocks bs := List.flatten_cons
    rw [List.length_cons, blocksOf, hflat, List.take_left' b.length_toList, List.drop_left' b.length_toList,
      fit_toList, ih]

/-- Every byte sequence is whole blocks and a rest that is shorter than a block. -/
theorem exists_flatBlocks_append (p : List Byte) :
    ∃ (bs : List Block) (rest : List Byte), rest.length < 64 ∧ p = flatBlocks bs ++ rest := by
  obtain ⟨blocks, rest, hcut⟩ := exists_isCut (size := 64) (by decide) p
  refine ⟨blocks.map (fit 64), rest, hcut.short, ?_⟩
  have hblocks : (blocks.map (fit 64)).map Vector.toList = blocks := by
    rw [List.map_map]
    exact (List.map_congr_left fun b hb => toList_fit b (hcut.whole b hb)).trans (List.map_id _)
  rw [flatBlocks, hblocks, hcut.joined]

/-- The padded stream is the whole blocks of the plaintext and its padded rest (R210, R217). -/
theorem padStream_flatBlocks_append (bs : List Block) {rest : List Byte} (h : rest.length < 64) :
    padStream (flatBlocks bs ++ rest) = flatBlocks (bs ++ [fit 64 (pad rest)]) := by
  rw [padStream, ← (isCut_flatBlocks bs h).length_rest, flatBlocks_append, flatBlocks_singleton,
    toList_fit _ (length_pad (Nat.le_of_lt h)), pad, List.append_assoc]

/-! ### `encrypt` in closed form -/

/-- How the plaintext is cut into chunks does not matter (R181(c), R216). -/
theorem encrypt_flatten (key : Key) (iv : Block) (chunks : List (List Byte)) :
    encrypt key iv chunks = encrypt key iv [chunks.flatten] := by
  obtain ⟨blocks, rest, hcut⟩ := exists_isCut (size := 64) (by decide) chunks.flatten
  have hone : IsCut 64 [chunks.flatten].flatten blocks rest := by rwa [List.flatten_singleton]
  rw [encrypt, encrypt, blockize_of_isCut hcut, blockize_of_isCut hone]

/-- The blocks of the padded plaintext, one more than there are whole blocks in the plaintext, chained: the ciphertext
under every key and IV (R217, R218). -/
theorem exists_paddedBlocks (chunks : List (List Byte)) :
    ∃ bs : List Block, padStream chunks.flatten = flatBlocks bs ∧ bs.length = chunks.flatten.length / 64 + 1 ∧
      ∀ key iv, encrypt key iv chunks = cipherChain key iv bs := by
  obtain ⟨bs, rest, hrest, hp⟩ := exists_flatBlocks_append chunks.flatten
  refine ⟨bs ++ [fit 64 (pad rest)], ?_, ?_, fun key iv => ?_⟩
  · rw [hp, padStream_flatBlocks_append bs hrest]
  · rw [hp, ← (isCut_flatBlocks bs hrest).length_blocks, List.length_map, List.length_append, List.length_singleton]
  · rw [encrypt_flatten, hp, encrypt_flatBlocks_append key iv bs hrest, cipherChain_append]
    rfl

/-- Chaining one block or more from different states differs from the first block on, since the Feistel transform is
injective (R155, R223). -/
theorem cipherChain_ne {key : Key} {chain chain' : Block} (hne : chain ≠ chain') {bs : List Block} (hbs : bs ≠ []) :
    cipherChain key chain bs ≠ cipherChain key chain' bs := by
  obtain ⟨b, bs, rfl⟩ := List.exists_cons_of_ne_nil hbs
  intro heq
  have hfirst : cipherBlock key chain b = cipherBlock key chain' b := (List.cons.inj heq).1
  exact hne (forward_injective key (xorBytes_left_injective b hfirst))

/-! ### The statements -/

/-- Settles O31: the three cases of what the end of an encryption emits. -/
theorem encryptorFinalStep : Obligations.EncryptorFinalStep := by
  intro s b hj hm
  rw [engineStep_encFinal hj hm, jobEncFinal]
  refine ⟨fun hpos hshort hb => ?remainder, fun hzero hmark hb => ?marker, fun hzero hpfb hany => ?nothing⟩
  case remainder =>
    obtain rfl := eq_paddedRemainder hshort hb
    rw [encTail_of_remainder hpos, chainStep, emitBlock, cipherBlock]
  case marker =>
    obtain rfl := eq_markerBlock hb
    rw [encTail_of_empty hzero, if_pos ((markerNeeded_iff s).mpr hmark), chainStep, emitBlock, cipherBlock]
  case nothing =>
    have hnomark : ¬ s.markerNeeded = true := by simp [markerNeeded_iff, hpfb, hany]
    rw [encTail_of_empty hzero, if_neg hnomark]

/-- Settles O53: the padded stream is whole blocks, and cutting it gives them back. -/
theorem encryptClosedForm : Obligations.EncryptClosedForm := by
  intro key iv chunks
  obtain ⟨bs, hpadded, hcount, hencrypt⟩ := exists_paddedBlocks chunks
  rw [hencrypt, hpadded, ← hcount, blocksOf_flatBlocks]
  exact ⟨rfl, length_flatBlocks bs, length_cipherChain key iv bs⟩

/-- Settles O55: the same padded blocks, one at least, are chained from two states. -/
theorem encryptIsIvSensitive : Obligations.EncryptIsIvSensitive := by
  intro key iv iv' chunks hne
  obtain ⟨bs, -, hcount, hencrypt⟩ := exists_paddedBlocks chunks
  have hbs : bs ≠ [] := List.ne_nil_of_length_eq_add_one hcount
  rw [hencrypt, hencrypt, length_cipherChain, length_cipherChain]
  exact ⟨cipherChain_ne hne hbs, rfl⟩

/-- Settles O19: the checks pass, so the command completes with its job latched. -/
theorem finalLatchesItsJob : Obligations.FinalLatchesItsJob := by
  intro s hjob hmode hout
  have hopen : s.streaming = true := by
    rcases hmode with hm | ⟨hm, -⟩ <;> rw [State.streaming, hm] <;> rfl
  have hrest : s.mode = .dec → s.bufcnt = 0 := fun hdec => (hmode.resolve_left (by rw [hdec]; exact nofun)).2
  exact exec_of_admits (i := .final) ⟨⟨hjob, hopen, hout⟩, hrest⟩

/-- Settles O54: no whole block and an empty rest, whose padding is the marker block. -/
theorem emptyInputGivesTheMarkerBlock : Obligations.EmptyInputGivesTheMarkerBlock := by
  intro key iv n
  have hnothing : (List.replicate n ([] : List Byte)).flatten = flatBlocks [] ++ [] := List.flatten_replicate_nil
  rw [encrypt_flatten, hnothing, encrypt_flatBlocks_append key iv [] (by decide), fit_pad_nil]
  rfl

end Sys2Proof.Machine
end

section
/-! PROOFS. The final-block rule; decryption undoes encryption; what a damaged ciphertext block reaches; the order of
the checks of the commands. -/

namespace Sys2Proof.Machine

/-! ### The final-block rule -/

/-- The block ends in a valid padding of `v` bytes (R244). -/
def EndsInPadding (h : Block) (v : Nat) : Prop :=
  1 ≤ v ∧ v < 64 ∧ ∀ i (_ : i < 64), 64 - v ≤ i → h[i].toNat = v

/-- The length of a padding stands in the last byte, so a block ends in one padding at most. -/
theorem EndsInPadding.last_toNat {h : Block} {v : Nat} (hp : EndsInPadding h v) : h[63].toNat = v := by
  obtain ⟨hpos, -, hbytes⟩ := hp
  exact hbytes 63 (by decide) (by omega)

theorem EndsInPadding.ne_markerBlock {h : Block} {v : Nat} (hp : EndsInPadding h v) : h ≠ markerBlock := by
  rintro rfl
  have hlast : (64 : Nat) = v := by simpa [markerBlock] using hp.last_toNat
  obtain ⟨-, hlt, -⟩ := hp
  omega

/-- The test that the final-block rule makes on the last byte. -/
theorem endsInPadding_last_iff (h : Block) : EndsInPadding h h[63].toNat ↔
    1 ≤ h[63].toNat ∧ h[63].toNat < 64 ∧ ∀ b ∈ h.toList.drop (64 - h[63].toNat), b = h[63] := by
  refine and_congr_right fun _ => and_congr_right fun _ => ⟨fun hbytes b hb => ?_, fun hbytes i hi hfrom => ?_⟩
  · obtain ⟨i, hi, rfl⟩ := List.mem_drop_iff_getElem.mp hb
    rw [h.length_toList] at hi
    rw [Vector.getElem_toList]
    exact BitVec.eq_of_toNat_eq (hbytes _ (by omega) (Nat.le_add_right _ _))
  · refine congrArg BitVec.toNat (hbytes h[i] (List.mem_drop_iff_getElem.mpr ⟨i - (64 - h[63].toNat), ?_, ?_⟩))
    · rw [h.length_toList]
      omega
    · simp only [Nat.add_sub_of_le hfrom, Vector.getElem_toList]

theorem finalRule_markerBlock : finalRule markerBlock = none := if_pos rfl

/-- A valid padding is taken off (R244). -/
theorem finalRule_of_padding {h : Block} {v : Nat} (hp : EndsInPadding h v) :
    finalRule h = some (h.toList.take (64 - v)) := by
  obtain rfl := hp.last_toNat
  rw [finalRule, if_neg hp.ne_markerBlock, if_pos ((endsInPadding_last_iff h).mp hp)]

/-- A block that is neither the marker nor padded is left as it is (R244). -/
theorem finalRule_of_no_padding {h : Block} (hmark : h ≠ markerBlock) (hpad : ∀ v, ¬ EndsInPadding h v) :
    finalRule h = some h.toList := by
  rw [finalRule, if_neg hmark, if_neg (mt (endsInPadding_last_iff h).mpr (hpad _))]

/-- The encryptor's padding of one byte or more, that of a rest that is not empty, is valid (R210, R244). -/
theorem endsInPadding_fit_pad {rest : List Byte} (hne : rest ≠ []) (hshort : rest.length < 64) :
    EndsInPadding (fit 64 (pad rest)) (64 - rest.length) := by
  have hpos : 0 < rest.length := List.length_pos_of_ne_nil hne
  refine ⟨by omega, by omega, fun i hi hfrom => ?_⟩
  rw [getElem_fit_pad, dif_neg (by omega), BitVec.toNat_ofNat, Nat.mod_eq_of_lt (by omega)]

/-- The final-block rule takes the encryptor's padding off again (R210, R244). -/
theorem finalRule_fit_pad {rest : List Byte} (hshort : rest.length < 64) :
    (finalRule (fit 64 (pad rest))).getD [] = rest := by
  by_cases hrest : rest = []
  · rw [hrest, fit_pad_nil, finalRule_markerBlock, Option.getD_none]
  · rw [finalRule_of_padding (endsInPadding_fit_pad hrest hshort), Option.getD_some,
      toList_fit _ (length_pad (Nat.le_of_lt hshort)), pad, List.take_left' (by omega)]

/-! ### The chaining of blocks and its recovery -/

/-- The mask of the chain state cancels itself (R211, R245). -/
theorem cipherBlock_cipherBlock (key : Key) (chain b : Block) :
    cipherBlock key chain (cipherBlock key chain b) = b := xorBytes_cancel b _

theorem cipherBlock_injective (key : Key) (chain : Block) : Function.Injective (cipherBlock key chain) :=
  Function.LeftInverse.injective (cipherBlock_cipherBlock key chain)

/-- Different chain states give different masks (R155). -/
theorem cipherBlock_chain_injective (key : Key) (b : Block) : Function.Injective (cipherBlock key · b) :=
  fun _ _ heq => forward_injective key (xorBytes_left_injective b heq)

/-- Recovery undoes the chaining, since both have the same chain states (R217, R245). -/
theorem plainChain_cipherChain (key : Key) (chain : Block) (bs : List Block) :
    plainChain key chain (cipherChain key chain bs) = bs := by
  induction bs generalizing chain with
  | nil => rfl
  | cons b bs ih => rw [cipherChain, plainChain, cipherBlock_cipherBlock, ih]

/-- `encrypt` chains the whole blocks and the padded rest (R217). -/
theorem encrypt_eq_cipherChain (key : Key) (iv : Block) (bs : List Block) {rest : List Byte}
    (hshort : rest.length < 64) :
    encrypt key iv [flatBlocks bs ++ rest] = cipherChain key iv (bs ++ [fit 64 (pad rest)]) := by
  rw [encrypt_flatBlocks_append key iv bs hshort, cipherChain_append]
  rfl

/-! ### The checks of the commands, in their order -/

/-- The two checks that `FWD`, `BWD`, `ENC_START` and `DEC_START` begin with: admission, then the key length (R309). -/
def startChecks (s : State) (k : Result) : Result :=
  unlessFaulted none s <|
  require (s.job = .none ∧ s.mode = .idle ∧ s.oavail = 0) .protocolError none s <|
  require (s.keylen = 32) .invalidKeyLength none s k

theorem startChecks_not_admitted {s : State} (hlive : s.mode ≠ .fault)
    (h : ¬ (s.job = .none ∧ s.mode = .idle ∧ s.oavail = 0)) (k : Result) :
    startChecks s k = .next { raiseFault .protocolError s with resp := none } :=
  (unlessFaulted_live hlive).trans (require_fails h)

theorem startChecks_admitted {s : State} (hlive : s.mode ≠ .fault)
    (h : s.job = .none ∧ s.mode = .idle ∧ s.oavail = 0) (k : Result) :
    startChecks s k = require (s.keylen = 32) .invalidKeyLength none s k :=
  (unlessFaulted_live hlive).trans (require_holds h)

/-- The transforms go on with the length of the operand (R156, R157). -/
theorem exec_transform_eq {i : Instr} (hi : i ∈ [Instr.fwd, .bwd]) (s : State) :
    ∃ k, exec i s = startChecks s (require (s.bufcnt = 64) .invalidBlockLength none s k) := by
  simp only [List.mem_cons, List.not_mem_nil, or_false] at hi
  rcases hi with rfl | rfl <;> exact ⟨_, rfl⟩

/-- The start commands of a stream go on with the length of the IV (R212, R240). -/
theorem exec_streamStart_eq {i : Instr} (hi : i ∈ [Instr.encStart, .decStart]) (s : State) :
    ∃ k, exec i s = startChecks s (require (s.ivlen = 64) .invalidIVLength none s k) := by
  simp only [List.mem_cons, List.not_mem_nil, or_false] at hi
  rcases hi with rfl | rfl <;> exact ⟨_, rfl⟩

/-- The transforms and the start commands begin with the same two checks (R309). -/
theorem exec_start_eq {i : Instr} (hi : i ∈ [Instr.fwd, .bwd, .encStart, .decStart]) (s : State) :
    ∃ k, exec i s = startChecks s k := by
  rcases List.mem_append.mp (show i ∈ [Instr.fwd, .bwd] ++ [.encStart, .decStart] from hi) with hi | hi
  · exact (exec_transform_eq hi s).imp' _ fun _ => id
  · exact (exec_streamStart_eq hi s).imp' _ fun _ => id

theorem streaming_iff (s : State) : s.streaming = true ↔ s.mode = .enc ∨ s.mode = .dec := by
  simp [State.streaming]

/-! ### The statements -/

/-- Settles O56: the cases of the rule, with the length of a valid padding read from the last byte. -/
theorem finalRuleCases : Obligations.FinalRuleCases := by
  intro h
  refine ⟨fun hmark => ?marker, fun v hpos hlt hbytes => finalRule_of_padding ⟨hpos, hlt, hbytes⟩,
    fun hmark hpad => finalRule_of_no_padding ?notMarker (not_exists.mp hpad)⟩
  case marker => rw [eq_markerBlock hmark, finalRule_markerBlock]
  case notMarker =>
    rintro rfl
    exact hmark fun i hi => getElem_rep _ _ hi

/-- Settles O57: recovery gives back the padded blocks of the plaintext, and the final-block rule takes the padding off
the last of them. -/
theorem decryptUndoesEncrypt : Obligations.DecryptUndoesEncrypt := by
  intro key iv p
  obtain ⟨bs, rest, hshort, rfl⟩ := exists_flatBlocks_append p
  rw [flatten_decrypt, encrypt_eq_cipherChain key iv bs hshort, plainChain_cipherChain, List.dropLast_concat,
    List.getLast?_concat, Option.bind_some, finalRule_fit_pad hshort]

/-- Settles O58: a ciphertext block is unmasked into its own plaintext block and is the chain state of the next one; the
one after that has its chain state from the next ciphertext block. -/
theorem damageReachesTwoBlocksOnly : Obligations.DamageReachesTwoBlocksOnly := by
  intro key iv front c c'
  have hown : c ≠ c' → cipherBlock key (front.getLast?.getD iv) c ≠ cipherBlock key (front.getLast?.getD iv) c' :=
    (cipherBlock_injective key _).ne
  refine ⟨length_plainChain key iv front, fun d back => ?followed, ?last⟩
  case followed =>
    have hnext : c ≠ c' → cipherBlock key c d ≠ cipherBlock key c' d := (cipherBlock_chain_injective key d).ne
    exact ⟨_, _, cipherBlock key c d, cipherBlock key c' d, plainChain key d back, plainChain_append key iv front _,
      plainChain_append key iv front _, length_plainChain key d back, fun hne => ⟨hown hne, hnext hne⟩⟩
  case last => exact ⟨_, _, plainChain_append key iv front [c], plainChain_append key iv front [c'], hown⟩

/-- Settles O20: the checks before the failing one pass, and the failing one is fault entry. -/
theorem firstFailingCheckDecidesTheFault : Obligations.FirstFailingCheckDecidesTheFault := by
  intro s hlive
  refine ⟨fun i hi hnot => ?admission, fun hjob hmode hout => ?lengths, fun hnot => ?finalAdmission,
    fun hjob hmode hout hrest => ?finalRest⟩
  case admission =>
    obtain ⟨k, hk⟩ := exec_start_eq hi s
    rw [hk, startChecks_not_admitted hlive hnot]
  case lengths =>
    have hpass := startChecks_admitted hlive ⟨hjob, hmode, hout⟩
    refine ⟨fun i hi hkey => ?_, fun i hi hkey hiv => ?_, fun i hi hkey hbuf => ?_⟩
    · obtain ⟨k, hk⟩ := exec_start_eq hi s
      rw [hk, hpass]
      exact require_fails hkey
    · obtain ⟨k, hk⟩ := exec_streamStart_eq hi s
      rw [hk, hpass, require_holds hkey]
      exact require_fails hiv
    · obtain ⟨k, hk⟩ := exec_transform_eq hi s
      rw [hk, hpass, require_holds hkey]
      exact require_fails hbuf
  case finalAdmission =>
    rw [← streaming_iff] at hnot
    exact (unlessFaulted_live hlive).trans (require_fails hnot)
  case finalRest =>
    have hopen : s.streaming = true := (streaming_iff s).mpr (.inr hmode)
    exact (unlessFaulted_live hlive).trans <|
      (require_holds ⟨hjob, hopen, hout⟩).trans (require_fails fun h => hrest (h hmode))

end Sys2Proof.Machine
end

section
/-! PROOFS. The words that `STATUS` and `LEN` read as, put together of their fields; the control commands, the register
reads and the two reset sources. -/

namespace Sys2Proof.Machine

/-! ### A register word and its fields -/

/-- A field of a register word: the bits of `x` from bit `k` on, and zeros around them (R40, R41). -/
def fieldAt {w : Nat} (k : Nat) (x : BitVec w) : Word32 := x.setWidth 32 <<< k

theorem getLsbD_fieldAt {w : Nat} (k : Nat) (x : BitVec w) (i : Nat) :
    (fieldAt k x).getLsbD i = (decide (i < 32) && !decide (i < k) && x.getLsbD (i - k)) := by
  by_cases hi : i < 32
  · have hsub : i - k < 32 := by omega
    simp only [fieldAt, BitVec.getLsbD_shiftLeft, BitVec.getLsbD_setWidth, hsub, decide_true, Bool.true_and]
  · simp only [fieldAt, BitVec.getLsbD_shiftLeft, hi, decide_false, Bool.false_and]

/-- The bits of a field are found at its place. -/
theorem extract_fieldAt_same {w k : Nat} (h : k + w ≤ 32) (x : BitVec w) : (fieldAt k x).extractLsb' k w = x := by
  apply BitVec.eq_of_getLsbD_eq
  intro i hi
  have hword : k + i < 32 := by omega
  have hplace : ¬ k + i < k := by omega
  simp only [BitVec.getLsbD_extractLsb', getLsbD_fieldAt, hi, hword, hplace, Nat.add_sub_cancel_left, decide_true,
    decide_false, Bool.not_false, Bool.true_and]

/-- Everywhere else a field is zero. -/
theorem extract_fieldAt_apart {w k l v : Nat} (h : l + v ≤ k ∨ k + w ≤ l) (x : BitVec w) :
    (fieldAt k x).extractLsb' l v = 0#v := by
  apply BitVec.eq_of_getLsbD_eq
  intro i hi
  rw [BitVec.getLsbD_extractLsb', getLsbD_fieldAt, BitVec.getLsbD_zero]
  rcases h with hbelow | habove
  · have hk : l + i < k := by omega
    simp only [hk, decide_true, Bool.not_true, Bool.and_false, Bool.false_and]
  · have hw : w ≤ l + i - k := by omega
    simp only [BitVec.getLsbD_of_ge x _ hw, Bool.and_false]

/-- A bit of a register word, as the field of width 1 that it is. -/
theorem getLsbD_eq_extract (x : Word32) (i : Nat) : x.getLsbD i = (x.extractLsb' i 1).getLsbD 0 := by
  rw [BitVec.getLsbD_extractLsb', decide_eq_true Nat.one_pos, Bool.true_and, Nat.add_zero]

theorem flag_eq_setWidth (b : Bool) : flag b = (BitVec.ofBool b).setWidth 32 := by
  cases b <;> rfl

/-- `STATUS` is made of its eight fields (R40). -/
theorem statusWord_eq_fields (s : State) : statusWord s =
    fieldAt 0 (BitVec.ofBool s.busy) ||| fieldAt 2 (BitVec.ofBool s.done) ||| fieldAt 3 (BitVec.ofBool s.pfb) |||
      fieldAt 4 (BitVec.ofBool s.any) ||| fieldAt 5 (BitVec.ofBool s.heldv) ||| fieldAt 8 (modeCode s.mode) |||
      fieldAt 12 (errCode s.err) ||| fieldAt 16 (jobCode s.job) := by
  simp only [statusWord, flag_eq_setWidth, fieldAt, BitVec.shiftLeft_zero]

/-- `OLEN` has seven bits, so the bytes still to pop are counted in one byte (R24). -/
theorem oavail_lt (s : State) : s.oavail < 2 ^ 8 := by
  have := s.olen.isLt
  rw [State.oavail]
  omega

/-- `LEN` is made of its four fields (R41). -/
theorem lenWord_eq_fields (s : State) : lenWord s =
    fieldAt 0 s.keylen ||| fieldAt 8 s.ivlen ||| fieldAt 16 s.bufcnt ||| fieldAt 24 (BitVec.ofNat 8 s.oavail) := by
  have hcount : BitVec.ofNat 32 s.oavail = (BitVec.ofNat 8 s.oavail).setWidth 32 :=
    (BitVec.setWidth_ofNat_of_le_of_lt (by decide) (oavail_lt s)).symm
  simp only [lenWord, fieldAt, hcount, BitVec.shiftLeft_zero]

/-! ### The statements -/

/-- Settles O15: at the place of a field, and at a reserved one, every other field is zero. -/
theorem rdstatusReturnsTheStatusFields : Obligations.RdstatusReturnsTheStatusFields := by
  intro s
  have hbusy : s.busy = true ↔ s.job ≠ .none := bne_iff_ne
  refine ⟨statusWord s, exec_of_admits (i := .rdstatus) trivial, ?_⟩
  rw [statusWord_eq_fields, ← hbusy]
  simp (disch := decide) only [getLsbD_eq_extract, BitVec.extractLsb'_or, extract_fieldAt_same, extract_fieldAt_apart,
    BitVec.or_zero, BitVec.zero_or]
  simp

/-- Settles O16: each count has a byte of its own. -/
theorem rdlenReturnsTheCounts : Obligations.RdlenReturnsTheCounts := by
  intro s
  refine ⟨lenWord s, exec_of_admits (i := .rdlen) trivial, ?_⟩
  rw [lenWord_eq_fields]
  simp (disch := decide) only [BitVec.extractLsb'_or, extract_fieldAt_same, extract_fieldAt_apart, BitVec.or_zero,
    BitVec.zero_or, true_and]
  exact (BitVec.toNat_ofNat _ _).trans (Nat.mod_eq_of_lt (oavail_lt s))

/-- Settles O11: `RESET` is admitted in every state. -/
theorem resetCommandResets : Obligations.ResetCommandResets := fun _ => exec_of_admits (i := .reset) trivial

/-- Settles O12: outside `FAULT` mode `ABORT` is admitted, inside it is ignored. -/
theorem abortAbandonsTheStream : Obligations.AbortAbandonsTheStream := fun _ =>
  ⟨fun hlive => exec_of_admits (i := .abort) hlive, fun hfault => unlessFaulted_faulted hfault⟩

/-- Settles O13: both commands check only that the engine is idle. -/
theorem clearCommandsForgetKeyOrIv : Obligations.ClearCommandsForgetKeyOrIv := fun _ =>
  ⟨fun hidle => ⟨exec_of_admits (i := .clrkey) hidle, exec_of_admits (i := .clriv) hidle⟩,
    fun hlive hbusy => ⟨pushOperand_not_admitted hlive hbusy _, pushOperand_not_admitted hlive hbusy _⟩⟩

/-- Settles O14: the register reads are admitted in every state. -/
theorem constantRegistersReadTheirConstants : Obligations.ConstantRegistersReadTheirConstants := fun _ =>
  ⟨exec_of_admits (i := .rdid) trivial, exec_of_admits (i := .rdparam) trivial⟩

/-- Settles O9: the transaction of `RESET` decodes to it, and its effect is that of a hardware reset. -/
theorem bothResetSourcesAreIdentical : Obligations.BothResetSourcesAreIdentical := by
  intro s rest hs
  rcases hs with hhard | hcommand
  · have htail : s.inputs.tail = rest := by rw [hhard, List.tail_cons]
    rw [step_hardwareReset (nextEvent_cons hhard), takeEvent_of_tail htail]
    rfl
  · rw [stepRunsTheDecodedInstruction s _ rest .reset hcommand (decodeEncodeRoundTrip .reset rfl)]
    exact resetCommandResets _

end Sys2Proof.Machine
end

section
/-! PROOFS. Fault entry; what `FAULT` mode ignores, instruction by instruction; and that only a reset leaves it. -/

namespace Sys2Proof.Machine

/-! ### Fault entry -/

/-- Settles O35: the two cases are those of the error code, and a mode that is `FAULT` already stays so. -/
theorem faultEntryEffect : Obligations.FaultEntryEffect := fun _ _ =>
  ⟨fun hlive => by rw [raiseFault, if_neg hlive], fun hfault => by rw [raiseFault, if_pos hfault, ← hfault]⟩

/-! ### The events in `FAULT` mode -/

/-- Settles O36: the register reads are admitted in every mode; every other instruction asks for the mode first. -/
theorem faultModeIgnoresInstructions : Obligations.FaultModeIgnoresInstructions := by
  intro s i hfault hi
  cases i with
  | reset => exact absurd rfl hi
  | rdid | rdparam | rdstatus | rdlen => exact ⟨_, exec_of_admits trivial, rfl⟩
  | _ => exact ⟨_, unlessFaulted_faulted hfault, rfl⟩

/-- No pair of the dispatch table has the mode `FAULT`, so the engine's turn changes nothing there (R279). -/
theorem EngineTurn.eq_of_fault {s t : State} (h : EngineTurn s t) (hfault : s.mode = .fault) : t = s := by
  cases h with
  | noop => rfl
  | transform _ hm | encBlock _ hm | decBlock _ hm => exact nomatch hfault.symm.trans hm
  | final _ hopen => exact absurd hfault (ne_fault_of_open hopen)

/-- A transaction in `FAULT` mode is `RESET`, or changes nothing but the response (R312 to R314). -/
theorem execTransaction_of_fault {d : Descriptor} {s t : State} (hfault : s.mode = .fault)
    (ht : execTransaction d s = .next t) :
    (∃ r, t = { s with resp := r }) ∨ (t = softReset s ∧ decode d = .ok .reset) := by
  cases hd : decode d with
  | error e =>
    obtain ⟨_, r, ⟨hlive, -⟩ | ⟨-, heq⟩⟩ := execUndecoded_cases (execTransaction_undecoded hd s ▸ ht)
    · exact absurd hfault hlive
    · exact .inl ⟨r, heq⟩
  | ok i =>
    rw [execTransaction_decoded hd] at ht
    by_cases hi : i = .reset
    · rw [hi, resetCommandResets] at ht
      exact .inr ⟨(Host.Outcome.next.inj ht).symm, by rw [hi]⟩
    · obtain ⟨r, hexec, -⟩ := faultModeIgnoresInstructions s i hfault hi
      rw [hexec] at ht
      exact .inl ⟨r, (Host.Outcome.next.inj ht).symm⟩

/-- An event that is not the engine's turn stands at the head of the list (log 2). -/
theorem head?_of_nextEvent {s : State} {e : Event} (h : nextEvent s = e) (he : e ≠ .engine) :
    s.inputs.head? = some e := by
  cases hs : s.inputs with
  | nil => exact absurd (h.symm.trans (nextEvent_nil hs)) he
  | cons e' rest => rw [List.head?_cons, ← nextEvent_cons hs, h]

/-- Settles O37: of the three kinds of event, a transaction is ignored or is `RESET`, the engine has nothing to do, and
a hardware reset resets. -/
theorem faultModeIsLeftOnlyByReset : Obligations.FaultModeIsLeftOnlyByReset := by
  intro s t hfault ht
  cases he : nextEvent s with
  | transaction d =>
    rw [step_transaction he] at ht
    rcases execTransaction_of_fault (s := takeEvent s) hfault ht with ⟨r, rfl⟩ | ⟨rfl, hd⟩
    · exact .inl rfl
    · exact .inr ⟨rfl, .inr ⟨d, head?_of_nextEvent he nofun, hd⟩⟩
  | engine =>
    rw [step_engine he, (engineStep_cases (takeEvent s)).eq_of_fault hfault, reply_eq_next] at ht
    rw [ht]
    exact .inl rfl
  | hardwareReset =>
    rw [step_hardwareReset he, reply_eq_next] at ht
    rw [ht]
    exact .inr ⟨rfl, .inl (head?_of_nextEvent he nofun)⟩

end Sys2Proof.Machine
end

section
/-! PROOFS. The reset state: its byte arrays hold zeros, its registers read as R340 says. -/

namespace Sys2Proof.Machine

/-- Nothing is busy, raised or flagged after reset, so `STATUS` reads 0. -/
theorem statusWord_reset : statusWord State.reset = 0 := by decide

/-- Nothing has been pushed and nothing waits to be popped after reset, so `LEN` reads 0. -/
theorem lenWord_reset : lenWord State.reset = 0 := by decide

/-- Settles O10: the byte arrays are replicated zeros, the other items are the reset state's fields, and the two
registers that read the state read the words above. -/
theorem resetStateValues : Obligations.ResetStateValues := by
  obtain ⟨hrdid, hrdparam⟩ := constantRegistersReadTheirConstants State.reset
  have hrdstatus : exec .rdstatus State.reset = .next { State.reset with resp := some 0 } := by
    rw [← statusWord_reset]
    exact exec_of_admits (i := .rdstatus) trivial
  have hrdlen : exec .rdlen State.reset = .next { State.reset with resp := some 0 } := by
    rw [← lenWord_reset]
    exact exec_of_admits (i := .rdlen) trivial
  exact ⟨fun _ h => Vector.getElem_replicate h, rfl, fun _ h => Vector.getElem_replicate h, rfl,
    fun _ h => Vector.getElem_replicate h, rfl, fun _ h => Vector.getElem_replicate h, rfl, rfl, rfl,
    fun _ h => Vector.getElem_replicate h, fun _ h => Vector.getElem_replicate h,
    rfl, rfl, rfl, rfl, rfl, rfl, rfl, hrdid, hrdparam, hrdstatus, hrdlen⟩

end Sys2Proof.Machine
end
